-- ==== Sys2Proof/Word.lean ====
section
/-! DEFINITION. The word types of the block (20_memory.md R67): bytes, nibbles, registers, schema words, identifiers. -/

namespace Sys2Proof

/-- A byte (00_scope.md R8). -/
abbrev Byte := BitVec 8

/-- Half a byte: the type-specific nibble of `data[1]`, a sequence number, a flow status. -/
abbrev Nibble := BitVec 4

/-- A register or a command header (20_memory.md R67). -/
abbrev Word32 := BitVec 32

/-- A schema word or a field value (20_memory.md R67). -/
abbrev Word64 := BitVec 64

/-- A CAN identifier: 29 bits, of which a standard one uses the low 11 (00_scope.md R12). -/
abbrev CanId := BitVec 29

/-- The 12-bit ISO-TP payload length (20_memory.md R63). -/
abbrev Length12 := BitVec 12

end Sys2Proof
end

