-- ==== Sys2Proof/Syntax.lean ====
section
/-! DEFINITION. The instructions: one constructor per row of spec/opcode_table.json. Eleven are host commands
(30_encoding.md R82); four are the frame kinds that TP_RX runs on an accepted frame (30_encoding.md R95-R99). -/

namespace Sys2Proof

/-- A RawFrame (00_scope.md R12) as the FRAME operand carries it (30_encoding.md R86): `dlc` has 4 bits there, so a value of
9..15 can be written; `ext` is true for a 29-bit identifier. -/
structure RawFrame where
  id : CanId
  ext : Bool
  dlc : BitVec 4
  data : Vector Byte 8
  deriving DecidableEq, Repr

/-- The instructions: eleven commands, and four frame kinds, which run inside TP_RX (R161; DESIGN CHOICE, log 1, safe). Field names are
those of 30_encoding.md R82 (`k`, `n`, `s`, `r`, `w`) and of the frame formats R96-R99. -/
inductive Instr where
  /-- 0x01: decode frame `f` against schema `k` (40_codec.md R121). -/
  | codecDecode (k : Byte) (f : RawFrame)
  /-- 0x02: encode a frame from schema `k`, sender byte `sender`, override mask `m` and values `v` (40_codec.md R130). -/
  | codecEncode (k : Byte) (sender : Byte) (m : Byte) (v : Vector Word64 8)
  /-- 0x03: decode `f` against schemas `k .. k+n-1` in order (40_codec.md R135). -/
  | codecClassify (k : Byte) (n : Byte) (f : RawFrame)
  /-- 0x10: hand one received frame to the framer (41_framer_rx.md R161). -/
  | tpRx (f : RawFrame)
  /-- 0x11: send payload `p` to recipient `r` (42_framer_tx.md R210). -/
  | tpSend (r : Byte) (p : List Byte)
  /-- 0x12: classify a frame without touching any state (41_framer_rx.md R188). -/
  | tpClassify (f : RawFrame)
  /-- 0x13: abandon the reassembly of sender `who`, or all of them (41_framer_rx.md R189). -/
  | tpDiscard (who : Byte) (all : Bool)
  /-- 0x20: write register `n` (43_config.md R241). -/
  | cfgWrite (n : Byte) (v : Word32)
  /-- 0x21: read register `n` (43_config.md R242). -/
  | cfgRead (n : Byte)
  /-- 0x22: write word `w` of schema entry `k` (43_config.md R244). -/
  | schWrite (k : Byte) (w : Byte) (v : Word64)
  /-- 0x23: read word `w` of schema entry `k` (43_config.md R245). -/
  | schRead (k : Byte) (w : Byte)
  /-- `data[1] = 0x0N`: a single frame, `dl` its length nibble, `b` the bytes `data[2..7]` (R96, R166). -/
  | isotpSf (sender : Byte) (dl : Nibble) (b : Vector Byte 6)
  /-- `data[1] = 0x1H`: a first frame, `len` its 12-bit length, `b` the bytes `data[3..7]` (R97, R169). -/
  | isotpFf (sender : Byte) (len : Length12) (b : Vector Byte 5)
  /-- `data[1] = 0x2S`: a consecutive frame, `sn` its sequence number, `b` the bytes `data[2..7]` (R98, R178). -/
  | isotpCf (sender : Byte) (sn : Nibble) (b : Vector Byte 6)
  /-- `data[1] = 0x3F`: a flow-control frame, flow status `fs`, block size `bs`, separation time `st`, padding `data[4..7]` (R99, R221). -/
  | isotpFc (sender : Byte) (fs : Nibble) (bs : Byte) (st : Byte) (padding : Vector Byte 4)
  deriving DecidableEq, Repr

end Sys2Proof
end

