-- ==== Sys2Proof/WellFormed.lean ====
section
/-! DEFINITION. Which instructions the encoding can spell. The field types carry each width but one: the payload of TP_SEND, whose
LEN operand has 16 bits (30_encoding.md R88). -/

namespace Sys2Proof

/-- The instruction can be written as a command or a frame. A payload of 0 or of 4096..65535 bytes is well-formed: TP_SEND turns
it away with PAYLOAD_LENGTH (30_encoding.md R88). -/
def Instr.wf (i : Instr) : Bool :=
  match i with
  | .codecDecode _ _ => true
  | .codecEncode _ _ _ _ => true
  | .codecClassify _ _ _ => true
  | .tpRx _ => true
  | .tpSend _ p => decide (p.length < 65536)
  | .tpClassify _ => true
  | .tpDiscard _ _ => true
  | .cfgWrite _ _ => true
  | .cfgRead _ => true
  | .schWrite _ _ _ => true
  | .schRead _ _ => true
  | .isotpSf _ _ _ => true
  | .isotpFf _ _ _ => true
  | .isotpCf _ _ _ => true
  | .isotpFc _ _ _ _ _ => true

/-- The instruction is a host command; the other four are frame kinds. -/
def Instr.isCommand (i : Instr) : Bool :=
  match i with
  | .codecDecode _ _ => true
  | .codecEncode _ _ _ _ => true
  | .codecClassify _ _ _ => true
  | .tpRx _ => true
  | .tpSend _ _ => true
  | .tpClassify _ => true
  | .tpDiscard _ _ => true
  | .cfgWrite _ _ => true
  | .cfgRead _ => true
  | .schWrite _ _ _ => true
  | .schRead _ _ => true
  | .isotpSf _ _ _ => false
  | .isotpFf _ _ _ => false
  | .isotpCf _ _ _ => false
  | .isotpFc _ _ _ _ _ => false

end Sys2Proof
end

