-- ==== Sys2Proof/Decode.lean ====
section
/-! DEFINITION. Decoding and encoding of commands (30_encoding.md R80-R89) and of frame kinds (R95-R99). A command's words travel
least significant byte first (log 4: R85 leaves the transit order out). -/

namespace Sys2Proof

/-! ## Words and bytes -/

/-- A 16-bit word from its bytes, least significant first. -/
def le16 (b0 b1 : Byte) : BitVec 16 := b1 ++ b0

/-- A 32-bit word from its bytes, least significant first. -/
def le32 (b0 b1 b2 b3 : Byte) : Word32 := b3 ++ b2 ++ b1 ++ b0

/-- A 64-bit word from its bytes, least significant first. -/
def le64 (b0 b1 b2 b3 b4 b5 b6 b7 : Byte) : Word64 := b7 ++ b6 ++ b5 ++ b4 ++ b3 ++ b2 ++ b1 ++ b0

/-- The bytes of a 16-bit word, least significant first. -/
def bytes16 (w : BitVec 16) : List Byte := [w.extractLsb' 0 8, w.extractLsb' 8 8]

/-- The bytes of a 32-bit word, least significant first. -/
def bytes32 (w : Word32) : List Byte :=
  [w.extractLsb' 0 8, w.extractLsb' 8 8, w.extractLsb' 16 8, w.extractLsb' 24 8]

/-- The bytes of a 64-bit word, least significant first. -/
def bytes64 (w : Word64) : List Byte :=
  [w.extractLsb' 0 8, w.extractLsb' 8 8, w.extractLsb' 16 8, w.extractLsb' 24 8,
   w.extractLsb' 32 8, w.extractLsb' 40 8, w.extractLsb' 48 8, w.extractLsb' 56 8]

/-! ## The opcode map -/

/-- The operand block shapes (R85). -/
inductive Shape where
  | none | frame | enc | send | val32 | val64
  deriving DecidableEq, Repr

/-- One row of the opcode map: the header bits a command must have (R82, R83). -/
structure OpcodeRow where
  opc : Byte
  matchBits : Word32
  maskBits : Word32
  shape : Shape
  deriving DecidableEq, Repr

/-- The opcode map, with the match/mask pairs as R82 lists them. -/
def opcodeRows : List OpcodeRow :=
  [ ⟨0x01, 0x00000001, 0xFFFF00FF, .frame⟩,
    ⟨0x02, 0x00000002, 0xFF0000FF, .enc⟩,
    ⟨0x03, 0x00000003, 0xFF0000FF, .frame⟩,
    ⟨0x10, 0x00000010, 0xFFFFFFFF, .frame⟩,
    ⟨0x11, 0x00000011, 0xFFFF00FF, .send⟩,
    ⟨0x12, 0x00000012, 0xFFFFFFFF, .frame⟩,
    ⟨0x13, 0x00000013, 0xFFFE00FF, .none⟩,
    ⟨0x20, 0x00000020, 0xFFFF00FF, .val32⟩,
    ⟨0x21, 0x00000021, 0xFFFF00FF, .none⟩,
    ⟨0x22, 0x00000022, 0xFF0000FF, .val64⟩,
    ⟨0x23, 0x00000023, 0xFF0000FF, .none⟩ ]

/-- The row of an opcode, if it spells a command (R83). -/
def opcodeRow (opc : Byte) : Option OpcodeRow := opcodeRows.find? (fun r => r.opc == opc)

/-! ## Header fields (R80) -/

/-- OPC, header bits 7:0. -/
def headerOpc (h : Word32) : Byte := h.extractLsb' 0 8
/-- A, header bits 15:8. -/
def headerA (h : Word32) : Byte := h.extractLsb' 8 8
/-- B, header bits 23:16. -/
def headerB (h : Word32) : Byte := h.extractLsb' 16 8

/-- A header word from OPC, A and B; C is 0 (R80). -/
def header (opc a b : Byte) : Word32 := (0#8) ++ b ++ a ++ opc

/-! ## The command decoder -/

/-- Why bytes are no command. The first three are the block's own ILLEGAL_COMMAND (R83, R84). The last three are no command
at all: the host handed over something other than a header and the operand block its opcode fixes (R85; log 5). -/
inductive DecodeError where
  /-- OPC spells no command (R83). -/
  | unknownOpcode (opc : Byte)
  /-- A reserved header field is not 0 (R83). -/
  | reservedHeader (opc : Byte)
  /-- A reserved bit of an operand word is set (R84). -/
  | reservedOperand (opc : Byte)
  /-- Fewer than the four bytes of a header. -/
  | shortHeader
  /-- The operand block is shorter than its shape. -/
  | shortOperand
  /-- Bytes follow the operand block. -/
  | longOperand
  deriving DecidableEq, Repr

/-- The outcome of decoding: an instruction or a rejection by name. -/
inductive Decoded where
  | instr (i : Instr)
  | reject (e : DecodeError)
  deriving DecidableEq, Repr

/-- The FRAME operand fields of R86: FW0 bits 28:0 `id`, bit 29 `ext`; FW1 bits 3:0 `dlc`. -/
def frameOfWords (fw0 fw1 : Word32) (data : Vector Byte 8) : RawFrame :=
  { id := fw0.extractLsb' 0 29, ext := fw0.getLsbD 29, dlc := fw1.extractLsb' 0 4, data := data }

/-- FW0 of a frame; its bits 31:30 are reserved (R86). -/
def frameWord0 (f : RawFrame) : Word32 := (0#2) ++ BitVec.ofBool f.ext ++ f.id

/-- FW1 of a frame; its bits 31:4 are reserved (R86). -/
def frameWord1 (f : RawFrame) : Word32 := (0#28) ++ f.dlc

/-- A reserved bit of FW0 or FW1 is set (R84, R86). -/
def frameWordsReserved (fw0 fw1 : Word32) : Bool :=
  fw0.extractLsb' 30 2 != 0 || fw1.extractLsb' 4 28 != 0

/-- A FRAME operand block, handed on to `mk` (R85, R86). -/
def decodeFrameOperand (opc : Byte) (ops : List Byte) (mk : RawFrame → Instr) : Decoded :=
  match ops with
  | a0 :: a1 :: a2 :: a3 :: b0 :: b1 :: b2 :: b3 :: d0 :: d1 :: d2 :: d3 :: d4 :: d5 :: d6 :: d7 :: rest =>
    if rest ≠ [] then .reject .longOperand
    else if frameWordsReserved (le32 a0 a1 a2 a3) (le32 b0 b1 b2 b3) then .reject (.reservedOperand opc)
    else .instr (mk (frameOfWords (le32 a0 a1 a2 a3) (le32 b0 b1 b2 b3) #v[d0, d1, d2, d3, d4, d5, d6, d7]))
  | _ => .reject .shortOperand

/-- The next 64-bit word of an operand block. -/
def takeWord64 (ops : List Byte) : Option (Word64 × List Byte) :=
  match ops with
  | b0 :: b1 :: b2 :: b3 :: b4 :: b5 :: b6 :: b7 :: rest => some (le64 b0 b1 b2 b3 b4 b5 b6 b7, rest)
  | _ => none

/-- The next `n` 64-bit words of an operand block. -/
def takeWords64 (n : Nat) (ops : List Byte) : Option (List Word64 × List Byte) :=
  match n with
  | 0 => some ([], ops)
  | n + 1 =>
    match takeWord64 ops with
    | none => none
    | some (w, rest) =>
      match takeWords64 n rest with
      | none => none
      | some (ws, rest') => some (w :: ws, rest')

/-- An ENC operand block: M, then V0..V7 (R85, R87). -/
def decodeEncOperand (ops : List Byte) (mk : Byte → Vector Word64 8 → Instr) : Decoded :=
  match ops with
  | [] => .reject .shortOperand
  | m :: ops =>
    match takeWords64 8 ops with
    | some ([v0, v1, v2, v3, v4, v5, v6, v7], []) => .instr (mk m #v[v0, v1, v2, v3, v4, v5, v6, v7])
    | some (_, _ :: _) => .reject .longOperand
    | _ => .reject .shortOperand

/-- A SEND operand block: LEN, then LEN payload bytes (R85, R88). -/
def decodeSendOperand (ops : List Byte) (mk : List Byte → Instr) : Decoded :=
  match ops with
  | l0 :: l1 :: p =>
    if p.length < (le16 l0 l1).toNat then .reject .shortOperand
    else if (le16 l0 l1).toNat < p.length then .reject .longOperand
    else .instr (mk p)
  | _ => .reject .shortOperand

/-- A VAL32 operand block (R85, R89). -/
def decodeVal32Operand (ops : List Byte) (mk : Word32 → Instr) : Decoded :=
  match ops with
  | [b0, b1, b2, b3] => .instr (mk (le32 b0 b1 b2 b3))
  | _ :: _ :: _ :: _ :: _ => .reject .longOperand
  | _ => .reject .shortOperand

/-- A VAL64 operand block (R85, R89). -/
def decodeVal64Operand (ops : List Byte) (mk : Word64 → Instr) : Decoded :=
  match takeWord64 ops with
  | some (w, []) => .instr (mk w)
  | some (_, _ :: _) => .reject .longOperand
  | none => .reject .shortOperand

/-- An empty operand block (R85). -/
def decodeNoOperand (ops : List Byte) (i : Instr) : Decoded :=
  match ops with
  | [] => .instr i
  | _ => .reject .longOperand

/-- The operand block of a command whose header has passed R83, by its opcode (R82). -/
def decodeOperands (opc a b : Byte) (ops : List Byte) : Decoded :=
  if opc = 0x01 then decodeFrameOperand opc ops (fun f => .codecDecode a f)
  else if opc = 0x02 then decodeEncOperand ops (fun m v => .codecEncode a b m v)
  else if opc = 0x03 then decodeFrameOperand opc ops (fun f => .codecClassify a b f)
  else if opc = 0x10 then decodeFrameOperand opc ops (fun f => .tpRx f)
  else if opc = 0x11 then decodeSendOperand ops (fun p => .tpSend a p)
  else if opc = 0x12 then decodeFrameOperand opc ops (fun f => .tpClassify f)
  else if opc = 0x13 then decodeNoOperand ops (.tpDiscard a (b.getLsbD 0))
  else if opc = 0x20 then decodeVal32Operand ops (fun v => .cfgWrite a v)
  else if opc = 0x21 then decodeNoOperand ops (.cfgRead a)
  else if opc = 0x22 then decodeVal64Operand ops (fun v => .schWrite a b v)
  else if opc = 0x23 then decodeNoOperand ops (.schRead a b)
  else .reject (.unknownOpcode opc)

/-- The header checks of R83, then the operand block. -/
def decodeHeader (h : Word32) (ops : List Byte) : Decoded :=
  match opcodeRow (headerOpc h) with
  | none => .reject (.unknownOpcode (headerOpc h))
  | some row =>
    if h &&& row.maskBits ≠ row.matchBits then .reject (.reservedHeader (headerOpc h))
    else decodeOperands (headerOpc h) (headerA h) (headerB h) ops

/-- Decode one command: its header and its operand block, as bytes. Total on any bytes. -/
def decode (bytes : List Byte) : Decoded :=
  match bytes with
  | b0 :: b1 :: b2 :: b3 :: ops => decodeHeader (le32 b0 b1 b2 b3) ops
  | _ => .reject .shortHeader

/-! ## The command encoder -/

/-- A FRAME operand block (R85, R86). -/
def encodeFrameOperand (f : RawFrame) : List Byte :=
  bytes32 (frameWord0 f) ++ bytes32 (frameWord1 f) ++ f.data.toList

/-- The bytes of a command; a frame kind is no command and has none (see `encodeFrame`). -/
def encode (i : Instr) : Option (List Byte) :=
  match i with
  | .codecDecode k f => some (bytes32 (header 0x01 k 0) ++ encodeFrameOperand f)
  | .codecEncode k sender m v => some (bytes32 (header 0x02 k sender) ++ m :: v.toList.flatMap bytes64)
  | .codecClassify k n f => some (bytes32 (header 0x03 k n) ++ encodeFrameOperand f)
  | .tpRx f => some (bytes32 (header 0x10 0 0) ++ encodeFrameOperand f)
  | .tpSend r p => some (bytes32 (header 0x11 r 0) ++ bytes16 (BitVec.ofNat 16 p.length) ++ p)
  | .tpClassify f => some (bytes32 (header 0x12 0 0) ++ encodeFrameOperand f)
  | .tpDiscard who all => some (bytes32 (header 0x13 who (if all then 1 else 0)))
  | .cfgWrite n v => some (bytes32 (header 0x20 n 0) ++ bytes32 v)
  | .cfgRead n => some (bytes32 (header 0x21 n 0))
  | .schWrite k w v => some (bytes32 (header 0x22 k w) ++ bytes64 v)
  | .schRead k w => some (bytes32 (header 0x23 k w))
  | .isotpSf _ _ _ => none
  | .isotpFf _ _ _ => none
  | .isotpCf _ _ _ => none
  | .isotpFc _ _ _ _ _ => none

/-! ## Frame kinds -/

/-- The type nibble `data[1][7:4]` (R95). -/
def pciType (data : Vector Byte 8) : Nibble := data[1].extractLsb' 4 4

/-- The type-specific nibble `data[1][3:0]` (R95). -/
def pciNibble (data : Vector Byte 8) : Nibble := data[1].extractLsb' 0 4

/-- The 12-bit length of a first frame, `data[1][3:0] ++ data[2]` (20_memory.md R63). -/
def ffLength (data : Vector Byte 8) : Length12 := pciNibble data ++ data[2]

/-- `data[2..7]`: the six data bytes of a single or consecutive frame (R96, R98). -/
def dataFrom2 (data : Vector Byte 8) : Vector Byte 6 := #v[data[2], data[3], data[4], data[5], data[6], data[7]]

/-- `data[3..7]`: the five data bytes of a first frame (R97). -/
def dataFrom3 (data : Vector Byte 8) : Vector Byte 5 := #v[data[3], data[4], data[5], data[6], data[7]]

/-- The frame kind an accepted 8-byte frame from `sender` spells (R95-R100); none for the type nibbles 4..15. -/
def decodeFrame (sender : Byte) (data : Vector Byte 8) : Option Instr :=
  if pciType data = 0 then some (.isotpSf sender (pciNibble data) (dataFrom2 data))
  else if pciType data = 1 then some (.isotpFf sender (ffLength data) (dataFrom3 data))
  else if pciType data = 2 then some (.isotpCf sender (pciNibble data) (dataFrom2 data))
  else if pciType data = 3 then
    some (.isotpFc sender (pciNibble data) data[2] data[3] #v[data[4], data[5], data[6], data[7]])
  else none

/-- The eight data bytes of a frame kind sent to `recipient` (R95-R99); a command has none. -/
def encodeFrame (recipient : Byte) (i : Instr) : Option (Vector Byte 8) :=
  match i with
  | .codecDecode _ _ => none
  | .codecEncode _ _ _ _ => none
  | .codecClassify _ _ _ => none
  | .tpRx _ => none
  | .tpSend _ _ => none
  | .tpClassify _ => none
  | .tpDiscard _ _ => none
  | .cfgWrite _ _ => none
  | .cfgRead _ => none
  | .schWrite _ _ _ => none
  | .schRead _ _ => none
  | .isotpSf _ dl b => some #v[recipient, (0x0#4) ++ dl, b[0], b[1], b[2], b[3], b[4], b[5]]
  | .isotpFf _ len b =>
    some #v[recipient, (0x1#4) ++ len.extractLsb' 8 4, len.extractLsb' 0 8, b[0], b[1], b[2], b[3], b[4]]
  | .isotpCf _ sn b => some #v[recipient, (0x2#4) ++ sn, b[0], b[1], b[2], b[3], b[4], b[5]]
  | .isotpFc _ fs bs st p => some #v[recipient, (0x3#4) ++ fs, bs, st, p[0], p[1], p[2], p[3]]

/-! ## One table row's word -/

/-- The operand block of zeros that follows a header in the host's table words. -/
def zeroOperands (opc : Byte) : List Byte :=
  match opcodeRow opc with
  | none => []
  | some row =>
    match row.shape with
    | .none => []
    | .frame => List.replicate 16 0
    | .enc => List.replicate 65 0
    | .send => List.replicate 2 0
    | .val32 => List.replicate 4 0
    | .val64 => List.replicate 8 0

/-- The bytes of the command whose header is `w` and whose operand block is all zeros. -/
def tableCommandBytes (w : Nat) : List Byte :=
  bytes32 (BitVec.ofNat 32 w) ++ zeroOperands (BitVec.ofNat 8 w)

/-- The data bytes of the frame whose `data[1]` is `w`, sent to `recipient`, every later byte 0. -/
def tableFrameData (recipient : Byte) (w : Nat) : Vector Byte 8 := #v[recipient, BitVec.ofNat 8 w, 0, 0, 0, 0, 0, 0]

/-- The instruction of a word of spec/opcode_table.json: an 8-bit row is a frame kind's `data[1]`, a longer one a header. -/
def decodeTableWord (nbits w : Nat) : Option Instr :=
  if nbits ≤ 8 then decodeFrame 0 (tableFrameData 0 w)
  else
    match decode (tableCommandBytes w) with
    | .instr i => some i
    | .reject _ => none

end Sys2Proof
end

