-- ==== Sys2Proof/Config.lean ====
section
/-! DEFINITION. What an implementation fixes (00_scope.md R6). N_SLOTS and N_SCHEMAS are OPEN parameters: the model takes them as
arguments (`State.resetWith`) and reads them off the state (the lengths of its two tables), so that statements hold for each value.
OUT_FIFO_DEPTH is unbounded in the model and T_SEP is time (R6), so neither appears. -/

namespace Sys2Proof.Config

/-- N_SLOTS of `State.reset`: the value 95_test_vectors.md gives each of its programs. DESIGN CHOICE (log 2), unsafe: R6 leaves
it OPEN in 1..256. -/
def resetSlots : Nat := 4

/-- N_SCHEMAS of `State.reset`: the value 95_test_vectors.md gives each of its programs. DESIGN CHOICE (log 2), unsafe: R6 leaves
it OPEN in 1..256. -/
def resetSchemas : Nat := 8

/-- MAX_PAYLOAD: the largest payload the framer sends or reassembles (R6). -/
def maxPayload : Nat := 4095

end Sys2Proof.Config
end

