-- ==== Sys2Proof/Machine/State.lean ====
section
/-! DEFINITION. The state of the block (10_state.md), the events it emits (00_scope.md R11), and reset (R43). -/

namespace Sys2Proof.Machine

/-! ## Events -/

/-- The status codes (60_exceptions.md R261); their numbers are `codeNumber`. -/
inductive Code where
  | ok | okSuperseded | txAborted
  | addressMismatch | lengthMismatch | fieldConstraintViolation | noMatch | notAddressed
  | protocolViolationSequence | protocolViolationSender | unexpectedCf | unexpectedFc
  | invalidFrameType | invalidSfLength | invalidFfLength | invalidFcStatus | noSlot
  | payloadLength | notConfigured
  | illegalCommand | malformedFrame | badSchema | badRegister
  deriving DecidableEq, Repr

/-- The info records of R261. -/
inductive Info where
  /-- `{}` -/
  | empty
  /-- `{discarded}` (41_framer_rx.md R189) -/
  | discarded (count : Nat)
  /-- `{wait: 1}` (42_framer_tx.md R228) -/
  | wait
  /-- `{old_sender}` (41_framer_rx.md R172) -/
  | oldSender (who : Byte)
  /-- `{old_recipient}` (42_framer_tx.md R214) -/
  | oldRecipient (who : Byte)
  /-- `{recipient}` (42_framer_tx.md R229) -/
  | recipient (who : Byte)
  /-- `{exp_id, exp_ext, act_id, act_ext}` (40_codec.md R126) -/
  | address (expId : CanId) (expExt : Bool) (actId : CanId) (actExt : Bool)
  /-- `{expected, actual}` of LENGTH_MISMATCH -/
  | lengths (expected : Nat) (actual : Nat)
  /-- `{field, actual, required}`; both values are raw field bits, zero-extended (40_codec.md R126) -/
  | field (index : Nat) (actual : Word64) (required : Word64)
  /-- `{count}` (40_codec.md R135) -/
  | count (n : Nat)
  /-- `{reason: ID, id, ext}` (41_framer_rx.md R162) -/
  | reasonId (id : CanId) (ext : Bool)
  /-- `{reason: RECIPIENT, recipient}` (41_framer_rx.md R162) -/
  | reasonRecipient (recipient : Byte)
  /-- `{sender, expected, actual}` of PROTOCOL_VIOLATION_SEQUENCE -/
  | sequence (sender : Byte) (expected : Nibble) (actual : Nibble)
  /-- `{expected, actual}` of PROTOCOL_VIOLATION_SENDER -/
  | senders (expected : Byte) (actual : Byte)
  /-- `{sender}` -/
  | sender (who : Byte)
  /-- `{type}` -/
  | frameType (t : Nibble)
  /-- `{length}` -/
  | length (n : Nat)
  /-- `{status}` -/
  | flowStatus (fs : Nibble)
  /-- `{opc}` -/
  | opc (opc : Byte)
  /-- `{index}`; CODEC_CLASSIFY's `k + j` does not wrap, so it may pass 255 (40_codec.md R135) -/
  | index (k : Nat)
  /-- `{reg}` -/
  | reg (n : Byte)
  /-- `{word}` -/
  | word (w : Byte)
  deriving DecidableEq, Repr

/-- The kind of an ISO-TP frame in a classification result (30_encoding.md R90). -/
inductive FrameKind where
  | sf | ff | cf | fc
  deriving DecidableEq, Repr

/-- The Result records of 30_encoding.md R90. -/
inductive Result where
  /-- `Fields{index, n, v[0..n-1], sender}` -/
  | fields (index : Nat) (n : Nat) (v : List Word64) (sender : Byte)
  /-- `Frame{f}` -/
  | frame (f : RawFrame)
  /-- `Pci{kind, recipient, sender, ext, p1, p2, p3, bytes}` -/
  | pci (kind : FrameKind) (recipient : Byte) (sender : Byte) (ext : Bool) (p1 : Length12) (p2 : Byte) (p3 : Byte) (bytes : List Byte)
  /-- `Reg{value}` -/
  | reg (value : Word32)
  /-- `Word{value}` -/
  | word (value : Word64)
  deriving DecidableEq, Repr

/-- The output events (00_scope.md R11). -/
inductive Event where
  /-- A frame to be sent on the bus. -/
  | txFrame (f : RawFrame)
  /-- A completed payload from `sender`. -/
  | rxPayload (sender : Byte) (p : List Byte)
  /-- A command's result. -/
  | result (r : Result)
  /-- A command's last event: its status code and info record. -/
  | status (c : Code) (info : Info)
  deriving DecidableEq, Repr

/-! ## State -/

/-- A schema entry: 18 words of 64 bits, W0, IDW, FD0..FD7, FV0..FV7 (10_state.md R30). -/
structure SchemaEntry where
  words : Vector Word64 18
  deriving DecidableEq, Repr

/-- A reassembly in progress (10_state.md R36). -/
structure Reassembly where
  /-- the peer's address -/
  sender : Byte
  /-- the declared length of the first frame -/
  dl : Length12
  /-- the bytes received so far -/
  buf : List Byte
  /-- the number of bytes still expected -/
  out : Length12
  /-- the sequence number the next consecutive frame must carry -/
  nsn : Nibble
  deriving DecidableEq, Repr

/-- A reassembly slot (10_state.md R36). -/
inductive Slot where
  | idle
  | receiving (r : Reassembly)
  deriving DecidableEq, Repr

/-- The transmit segment (10_state.md R39). -/
inductive TxSeg where
  | none
  | pending (recipient : Byte) (rem : List Byte) (sn : Nibble)
  deriving DecidableEq, Repr

/-- One item of what the host does to the block: a command, handed over whole as its header and operand bytes
(30_encoding.md R80, R85), or the external reset event (70_reset_and_hazards.md R290). -/
inductive HostInput where
  | command (bytes : List Byte)
  | reset
  deriving DecidableEq, Repr

/-- The state record of 10_state.md R23, the command position of R21, and the model's two ends of the command interface: what the
host has issued and the block has not yet taken (`input`), and every event emitted so far, oldest first (`outs`, R14; log 3). N_SCHEMAS is the
length of `sch` and N_SLOTS that of `slots` (R6; log 2). -/
structure State where
  /-- CFG0 (R24) -/
  cfg0 : Word32
  /-- CFG1 (R25) -/
  cfg1 : Word32
  /-- CFG2 (R26) -/
  cfg2 : Word32
  /-- the schema table (R30) -/
  sch : List SchemaEntry
  /-- the reassembly slots (R36) -/
  slots : List Slot
  /-- the transmit segment (R39) -/
  tx : TxSeg
  /-- the command position (R21) -/
  pos : Nat
  /-- the host's inputs not yet taken -/
  input : List HostInput
  /-- the events emitted so far -/
  outs : List Event
  deriving DecidableEq, Repr

/-! ## How a step can stop -/

/-- Why a step can fault. No command does: "The block has no traps" (60_exceptions.md R260). -/
inductive Fault where
  /-- Raised by `step` alone, when the host has issued nothing more: the run has ended (00_scope.md R14). Safe: the block does nothing
  here either. -/
  | endOfRun
  deriving DecidableEq, Repr

/-- Why a step can be refused. -/
inductive Refusal where
  /-- Raised by an arm of `exec` whose instruction has no meaning yet. Safe. No arm raises it. -/
  | notModelled (mnemonic : String)
  /-- Raised by `step` alone, when a host input's bytes are not one header and the operand block its opcode fixes: the typed interface of
  30_encoding.md R85 cannot hand such a thing over (log 5). Safe. -/
  | notACommand
  deriving DecidableEq, Repr

/-! ## Reset -/

/-- A schema entry after reset: every word 0 (10_state.md R35). -/
def SchemaEntry.zero : SchemaEntry := { words := Vector.replicate 18 0 }

/-- The state after reset of a block with the given parameters (10_state.md R43; 00_scope.md R6), the host having issued nothing. -/
def State.resetWith (nSlots nSchemas : Nat) : State :=
  { cfg0 := 0x00000002
    cfg1 := 0x00000600
    cfg2 := 0x00000100
    sch := List.replicate nSchemas SchemaEntry.zero
    slots := List.replicate nSlots .idle
    tx := .none
    pos := 0
    input := []
    outs := [] }

/-- The state after reset, with the parameters of 95_test_vectors.md (DESIGN CHOICE, log 2, unsafe). -/
def State.reset : State := State.resetWith Config.resetSlots Config.resetSchemas

end Sys2Proof.Machine
end

