-- ==== Sys2Proof/Machine/Ops.lean ====
section
/-! DEFINITION. The named operations over the state: updates, register fields, slots, events and the ending of a command,
framer reset and the reset event. There is no memory (20_memory.md R60) and no exception entry or return: an error is a value (60_exceptions.md
R260), reported by `raise`. -/

namespace Sys2Proof.Machine

/-! ## Updates -/

/-- Write CFG0. -/
def setCfg0 (s : State) (v : Word32) : State := { s with cfg0 := v }
/-- Write CFG1. -/
def setCfg1 (s : State) (v : Word32) : State := { s with cfg1 := v }
/-- Write CFG2. -/
def setCfg2 (s : State) (v : Word32) : State := { s with cfg2 := v }
/-- Replace the schema table. -/
def setSch (s : State) (t : List SchemaEntry) : State := { s with sch := t }
/-- Replace the slots. -/
def setSlots (s : State) (ks : List Slot) : State := { s with slots := ks }
/-- Replace the transmit segment. -/
def setTx (s : State) (t : TxSeg) : State := { s with tx := t }
/-- Set the command position. -/
def setPos (s : State) (n : Nat) : State := { s with pos := n }
/-- Replace the host inputs not yet taken. -/
def setInput (s : State) (is : List HostInput) : State := { s with input := is }
/-- Append events to the output (00_scope.md R9, R14). -/
def emits (s : State) (es : List Event) : State := { s with outs := s.outs ++ es }

/-! ## Ending a command (00_scope.md R9, R11) -/

/-- End a command: its events, then its one Status event, last (R11). -/
def finish (s : State) (es : List Event) (c : Code) (info : Info) : Host.Outcome State Fault Refusal :=
  .next (emits s (es ++ [.status c info]))

/-- `raise X(info)`: only the Status event; `s` carries the writes the rule names before the raise (R9). -/
def raise (s : State) (c : Code) (info : Info) : Host.Outcome State Fault Refusal := finish s [] c info

/-- A command that ends without `raise` or `status`: `Status(OK, {})` (R9). -/
def done (s : State) (es : List Event) : Host.Outcome State Fault Refusal := finish s es .ok .empty

/-! ## Register fields (10_state.md R24-R26) -/

/-- CFG0.EN. -/
def enabled (s : State) : Bool := s.cfg0.getLsbD 0
/-- CFG0.MODE = PER_PEER. -/
def perPeer (s : State) : Bool := s.cfg0.getLsbD 1
/-- CFG0.FCPOL = STRICT. -/
def strict (s : State) : Bool := s.cfg0.getLsbD 2
/-- CFG0.LOCAL_ADDR. -/
def localAddr (s : State) : Byte := s.cfg0.extractLsb' 8 8
/-- CFG0.PAD. -/
def pad (s : State) : Byte := s.cfg0.extractLsb' 16 8
/-- CFG1.BASE_ID. -/
def baseId (s : State) : BitVec 11 := s.cfg1.extractLsb' 0 11
/-- CFG2.FC_BS. -/
def fcBs (s : State) : Byte := s.cfg2.extractLsb' 0 8
/-- CFG2.FC_STMIN. -/
def fcStmin (s : State) : Byte := s.cfg2.extractLsb' 8 8

/-- The writable bits of CFG0 (43_config.md R241; 10_state.md R29). -/
def cfg0Mask : Word32 := 0x00FFFF07
/-- The writable bits of CFG1 (R241). -/
def cfg1Mask : Word32 := 0x000007FF
/-- The writable bits of CFG2 (R241). -/
def cfg2Mask : Word32 := 0x0000FFFF

/-- `WMask(w)`: the writable bits of schema word `w` (43_config.md R244). -/
def schMask (w : Nat) : Word64 :=
  if w = 0 then 0x7F else if w = 1 then 0x1FFFFFFF else if w ≤ 9 then 0x7F else BitVec.allOnes 64

/-! ## Slots (10_state.md R36) -/

/-- Slot `k`; a slot that does not exist counts as IDLE (every rule asks only for `k < N_SLOTS`). -/
def slotAt (s : State) (k : Nat) : Slot := s.slots.getD k .idle

/-- `slot[k] <- v`. -/
def setSlot (s : State) (k : Nat) (v : Slot) : State := setSlots s (s.slots.set k v)

/-- The slot is RECEIVING. -/
def isReceiving (v : Slot) : Bool :=
  match v with
  | .idle => false
  | .receiving _ => true

/-- The slot is RECEIVING for sender `who`. -/
def receivesFrom (who : Byte) (v : Slot) : Bool :=
  match v with
  | .idle => false
  | .receiving r => r.sender == who

/-- The slot that receives from `who`, if any: the one the rules call "that k" (41_framer_rx.md R170, R178). It is unique in every
reachable state (10_state.md R37); elsewhere the least is taken (DESIGN CHOICE, log 6, safe). -/
def slotOfSender (s : State) (who : Byte) : Option Nat := s.slots.findIdx? (receivesFrom who)

/-- The least IDLE slot, if any (R170). -/
def leastIdle (s : State) : Option Nat := s.slots.findIdx? (fun v => !isReceiving v)

/-- RXBUSY: the number of RECEIVING slots (10_state.md R27). -/
def rxBusy (s : State) : Nat := s.slots.countP isReceiving

/-- `tx` is PENDING. -/
def txPending (s : State) : Bool :=
  match s.tx with
  | .none => false
  | .pending _ _ _ => true

/-! ## Framer reset and the reset event -/

/-- `FramerReset()`: every slot IDLE and `tx` NONE, no event (43_config.md R243). -/
def framerReset (s : State) : State := setTx (setSlots s (s.slots.map (fun _ => .idle))) .none

/-- The external reset event (70_reset_and_hazards.md R290): every field of R43 at its reset value, the position 0, no event. The
parameters are fixed by the block; what the host has issued and what has been emitted are not the block's to clear (DEDUCED, log 9). -/
def resetEvent (s : State) : State :=
  { State.resetWith s.slots.length s.sch.length with input := s.input, outs := s.outs }

/-! ## Frames the framer sends -/

/-- Eight data bytes: the given bytes, then `fill` (42_framer_tx.md R210, R222). -/
def padTo8 (fill : Byte) (l : List Byte) : Vector Byte 8 :=
  #v[l.getD 0 fill, l.getD 1 fill, l.getD 2 fill, l.getD 3 fill, l.getD 4 fill, l.getD 5 fill, l.getD 6 fill, l.getD 7 fill]

/-- `TxFrameOf(d)`: every frame the framer sends (42_framer_tx.md R213). -/
def txFrameOf (s : State) (d : Vector Byte 8) : RawFrame :=
  { id := (baseId s ||| (localAddr s).setWidth 11).setWidth 29, ext := false, dlc := 8, data := d }

/-- `FcFrame(peer)`: the flow-control-continue frame sent back to a peer (41_framer_rx.md R176). -/
def fcFrame (s : State) (peer : Byte) : RawFrame :=
  txFrameOf s #v[peer, 0x30, fcBs s, fcStmin s, pad s, pad s, pad s, pad s]

/-! ## The fetch -/

/-- Take the host's next input: the command position advances by one (10_state.md R21). -/
def takeInput (s : State) (rest : List HostInput) : State := setPos (setInput s rest) (s.pos + 1)

/-- The frame that spells the frame-kind row `w` for this block: addressed to it, its sender byte and every later data byte 0. -/
def tableFrame (s : State) (w : Nat) : RawFrame :=
  { id := (baseId s &&& 0x700).setWidth 29, ext := false, dlc := 8, data := tableFrameData (localAddr s) w }

/-- The host issues, as its next command, the one a table row's word spells. A frame-kind row runs inside TP_RX of an accepted frame
(41_framer_rx.md R161, R162), so there the framer is enabled too and the command is TP_RX of `tableFrame` (log 10). -/
def placeTableWord (s : State) (nbits w : Nat) : State :=
  if nbits ≤ 8 then
    setCfg0 (setInput s (.command (bytes32 (header 0x10 0 0) ++ encodeFrameOperand (tableFrame s w)) :: s.input)) (s.cfg0 ||| 1)
  else setInput s (.command (tableCommandBytes w) :: s.input)

end Sys2Proof.Machine
end

