-- ==== Sys2Proof/Machine/Operands.lean ====
section
/-! DEFINITION. The operand forms: frames (00_scope.md R12), schema entries and their fields (10_state.md R30-R34, 40_codec.md
R122-R125), and the PCI of an 8-byte frame (41_framer_rx.md R164). -/

namespace Sys2Proof.Machine

/-! ## Frames -/

/-- `WellFormed(f)` (00_scope.md R12). -/
def wellFormedFrame (f : RawFrame) : Bool := decide (f.dlc.toNat ≤ 8) && (f.ext || decide (f.id.toNat < 0x800))

/-- The sender of a frame, `id[7:0]` (41_framer_rx.md R163). -/
def senderOf (f : RawFrame) : Byte := f.id.extractLsb' 0 8

/-! ## Schema words (10_state.md R30-R33) -/

/-- Word `w` of an entry. -/
def wordAt (e : SchemaEntry) (w : Nat) : Word64 := e.words.toList.getD w 0

/-- An entry with word `w` replaced. -/
def setWord (e : SchemaEntry) (w : Nat) (v : Word64) : SchemaEntry := { words := e.words.setIfInBounds w v }

/-- W0.VALID. -/
def entryIsValid (e : SchemaEntry) : Bool := (wordAt e 0).getLsbD 0
/-- W0.EXT. -/
def entryExt (e : SchemaEntry) : Bool := (wordAt e 0).getLsbD 1
/-- W0.IDMODE = ADDRESSED. -/
def entryAddressed (e : SchemaEntry) : Bool := (wordAt e 0).getLsbD 2
/-- W0.NFIELDS. -/
def entryFields (e : SchemaEntry) : Nat := ((wordAt e 0).extractLsb' 3 4).toNat
/-- IDW.ID. -/
def entryId (e : SchemaEntry) : CanId := (wordAt e 1).extractLsb' 0 29
/-- FD[i]. -/
def fieldDesc (e : SchemaEntry) (i : Nat) : Word64 := wordAt e (2 + i)
/-- FV[i]. -/
def fieldDefault (e : SchemaEntry) (i : Nat) : Word64 := wordAt e (10 + i)
/-- FD[i].WIDTH, in bytes. -/
def fieldWidth (e : SchemaEntry) (i : Nat) : Nat := ((fieldDesc e i).extractLsb' 0 4).toNat
/-- FD[i].ORDER = little-endian. -/
def fieldLittle (e : SchemaEntry) (i : Nat) : Bool := (fieldDesc e i).getLsbD 4
/-- FD[i].SIGNED. -/
def fieldSigned (e : SchemaEntry) (i : Nat) : Bool := (fieldDesc e i).getLsbD 5
/-- FD[i].CONST. -/
def fieldConst (e : SchemaEntry) (i : Nat) : Bool := (fieldDesc e i).getLsbD 6

/-- `off(i)`: the byte offset of field `i` (40_codec.md R123). -/
def fieldOffset (e : SchemaEntry) (i : Nat) : Nat := ((List.range i).map (fieldWidth e)).sum

/-- `Len(k)`: the schema's data length (10_state.md R34). -/
def entryLen (e : SchemaEntry) : Nat := fieldOffset e (entryFields e)

/-- `SchemaValid` of an entry that exists (10_state.md R34). -/
def entryUsable (e : SchemaEntry) : Bool :=
  entryIsValid e && decide (entryFields e ≤ 8)
    && (List.range (entryFields e)).all (fun i => decide (1 ≤ fieldWidth e i) && decide (fieldWidth e i ≤ 8))
    && decide (entryLen e ≤ 8)
    && (entryExt e || decide ((entryId e).toNat < 0x800))

/-- `sch[k]` when `SchemaValid(k)` holds; `k` is a Nat, since CODEC_CLASSIFY's `k + j` does not wrap (40_codec.md R135). -/
def validEntry (s : State) (k : Nat) : Option SchemaEntry :=
  match s.sch[k]? with
  | none => none
  | some e => if entryUsable e then some e else none

/-! ## Field values -/

/-- Bytes as one number, the first the most significant (20_memory.md R62). -/
def beValue (l : List Byte) : Word64 := l.foldl (fun acc b => (acc <<< 8) ||| b.setWidth 64) 0

/-- `v[8*w-1 : 0]`, zero-extended: the low `w` bytes of a value. -/
def lowBytes (w : Nat) (v : Word64) : Word64 := (v.setWidth (8 * w)).setWidth 64

/-- The bytes of field `i` in frame order. -/
def fieldBytes (e : SchemaEntry) (i : Nat) (data : Vector Byte 8) : List Byte :=
  (data.toList.drop (fieldOffset e i)).take (fieldWidth e i)

/-- `FieldRaw(k, i, data)` (40_codec.md R123). -/
def fieldRaw (e : SchemaEntry) (i : Nat) (data : Vector Byte 8) : Word64 :=
  if fieldLittle e i then beValue (fieldBytes e i data).reverse else beValue (fieldBytes e i data)

/-- `FieldValue(k, i, raw)` (40_codec.md R124). -/
def fieldValue (e : SchemaEntry) (i : Nat) (raw : Word64) : Word64 :=
  if fieldSigned e i then (raw.setWidth (8 * fieldWidth e i)).signExtend 64 else raw

/-- The raw bits a filter field requires, `FV[i][8*w-1:0]` (R125). -/
def fieldRequired (e : SchemaEntry) (i : Nat) : Word64 := lowBytes (fieldWidth e i) (fieldDefault e i)

/-- The filter of field `i` is violated (R125). -/
def fieldViolated (e : SchemaEntry) (data : Vector Byte 8) (i : Nat) : Bool :=
  fieldConst e i && fieldRaw e i data != fieldRequired e i

/-- The value CODEC_ENCODE gives field `i`: `V[i]` where a variable field is overridden, else `FV[i]` (R130, R133). -/
def encodeSource (e : SchemaEntry) (m : Byte) (v : Vector Word64 8) (i : Nat) : Word64 :=
  if fieldConst e i || !m.getLsbD i then fieldDefault e i else v.toList.getD i 0

/-- The bytes CODEC_ENCODE writes for field `i`, in frame order (R130): the low bytes of its value, truncated (R132). -/
def encodeFieldBytes (e : SchemaEntry) (m : Byte) (v : Vector Word64 8) (i : Nat) : List Byte :=
  (List.range (fieldWidth e i)).map (fun j =>
    (encodeSource e m v i).extractLsb' (8 * (if fieldLittle e i then j else fieldWidth e i - 1 - j)) 8)

/-! ## PCI -/

/-- The outcome of `ClassifyPCI` (41_framer_rx.md R164). -/
inductive Pci where
  | err (c : Code) (info : Info)
  | sf (p : List Byte) (n : Nibble)
  | ff (len : Length12) (chunk : List Byte)
  | cf (sn : Nibble) (b : Vector Byte 6)
  | fc (fs : Nibble) (bs : Byte) (st : Byte)
  deriving DecidableEq, Repr

/-- Type 0: a length nibble of 0 or 7..15 is INVALID_SF_LENGTH (R164, R167). -/
def sfPci (dl : Nibble) (b : Vector Byte 6) : Pci :=
  if dl = 0 ∨ 6 < dl.toNat then .err .invalidSfLength (.length dl.toNat) else .sf (b.toList.take dl.toNat) dl

/-- Type 1: a length of 0 is INVALID_FF_LENGTH; the chunk is the first `min(L, 5)` bytes (R164, R174). -/
def ffPci (len : Length12) (b : Vector Byte 5) : Pci :=
  if len = 0 then .err .invalidFfLength (.length 0) else .ff len (b.toList.take (min len.toNat 5))

/-- Type 2 (R164). -/
def cfPci (sn : Nibble) (b : Vector Byte 6) : Pci := .cf sn b

/-- Type 3 (R164). -/
def fcPci (fs : Nibble) (bs st : Byte) : Pci := .fc fs bs st

/-- `ClassifyPCI(data)` (R164). -/
def classifyPci (data : Vector Byte 8) : Pci :=
  if pciType data = 0 then sfPci (pciNibble data) (dataFrom2 data)
  else if pciType data = 1 then ffPci (ffLength data) (dataFrom3 data)
  else if pciType data = 2 then cfPci (pciNibble data) (dataFrom2 data)
  else if pciType data = 3 then fcPci (pciNibble data) data[2] data[3]
  else .err .invalidFrameType (.frameType (pciType data))

end Sys2Proof.Machine
end

