-- ==== Sys2Proof/Machine/Codec.lean ====
section
/-! DEFINITION. The codec commands CODEC_DECODE, CODEC_ENCODE and CODEC_CLASSIFY (40_codec.md). They write no state (R120). -/

namespace Sys2Proof.Machine

/-- `AddrMatch(k, f)` (40_codec.md R122). -/
def addrMatch (e : SchemaEntry) (f : RawFrame) : Bool :=
  entryAddressed e || (f.ext == entryExt e && f.id == entryId e)

/-- The least field whose filter the frame violates (R126). -/
def firstViolation (e : SchemaEntry) (data : Vector Byte 8) : Option Nat :=
  (List.range (entryFields e)).find? (fieldViolated e data)

/-- The decoded values `v[0..n-1]` (R126). -/
def decodedValues (e : SchemaEntry) (data : Vector Byte 8) : List Word64 :=
  (List.range (entryFields e)).map (fun i => fieldValue e i (fieldRaw e i data))

/-- The sender of a Fields result: `id[7:0]` for an ADDRESSED schema, 0 for a FIXED one (30_encoding.md R90). -/
def decodedSender (e : SchemaEntry) (f : RawFrame) : Byte := if entryAddressed e then senderOf f else 0

/-- The outcome of `Match` (R126). -/
inductive MatchResult where
  | err (c : Code) (info : Info)
  | ok (r : Result)
  deriving DecidableEq, Repr

/-- `Match(k, f)`: address, length, then filters in ascending order; the first failing check is reported (R126). -/
def matchEntry (k : Nat) (e : SchemaEntry) (f : RawFrame) : MatchResult :=
  if !addrMatch e f then .err .addressMismatch (.address (entryId e) (entryExt e) f.id f.ext)
  else if f.dlc.toNat ≠ entryLen e then .err .lengthMismatch (.lengths (entryLen e) f.dlc.toNat)
  else
    match firstViolation e f.data with
    | some i => .err .fieldConstraintViolation (.field i (fieldRaw e i f.data) (fieldRequired e i))
    | none => .ok (.fields k (entryFields e) (decodedValues e f.data) (decodedSender e f))

/-- CODEC_DECODE (R121). -/
def execCodecDecode (k : Byte) (f : RawFrame) (s : State) : Host.Outcome State Fault Refusal :=
  match validEntry s k.toNat with
  | none => raise s .badSchema (.index k.toNat)
  | some e =>
    if !wellFormedFrame f then raise s .malformedFrame .empty
    else
      match matchEntry k.toNat e f with
      | .err c info => raise s c info
      | .ok r => done s [.result r]

/-- The identifier CODEC_ENCODE gives its frame (R130). -/
def encodedId (e : SchemaEntry) (sender : Byte) : CanId :=
  if entryAddressed e then entryId e ||| sender.setWidth 29 else entryId e

/-- The data CODEC_ENCODE gives its frame: the fields in order, then zeros (R130; 00_scope.md R12). -/
def encodedData (e : SchemaEntry) (m : Byte) (v : Vector Word64 8) : Vector Byte 8 :=
  padTo8 0 ((List.range (entryFields e)).flatMap (encodeFieldBytes e m v))

/-- The frame CODEC_ENCODE emits (R130). -/
def encodedFrame (e : SchemaEntry) (sender m : Byte) (v : Vector Word64 8) : RawFrame :=
  { id := encodedId e sender, ext := entryExt e, dlc := BitVec.ofNat 4 (entryLen e), data := encodedData e m v }

/-- CODEC_ENCODE (R130). -/
def execCodecEncode (k sender m : Byte) (v : Vector Word64 8) (s : State) : Host.Outcome State Fault Refusal :=
  match validEntry s k.toNat with
  | none => raise s .badSchema (.index k.toNat)
  | some e => done s [.result (.frame (encodedFrame e sender m v))]

/-- The indices `k .. k+n-1`, computed without wrap (R135). -/
def classifyRange (k n : Byte) : List Nat := (List.range n.toNat).map (fun j => k.toNat + j)

/-- Schema `j` matches the frame, with this result. -/
def matchAt (s : State) (f : RawFrame) (j : Nat) : Option Result :=
  match validEntry s j with
  | none => none
  | some e =>
    match matchEntry j e f with
    | .err _ _ => none
    | .ok r => some r

/-- CODEC_CLASSIFY: all the schemas of the range are checked first, then the frame, then they are tried in order (R135). -/
def execCodecClassify (k n : Byte) (f : RawFrame) (s : State) : Host.Outcome State Fault Refusal :=
  match (classifyRange k n).find? (fun j => (validEntry s j).isNone) with
  | some j => raise s .badSchema (.index j)
  | none =>
    if !wellFormedFrame f then raise s .malformedFrame .empty
    else
      match (classifyRange k n).findSome? (matchAt s f) with
      | some r => done s [.result r]
      | none => raise s .noMatch (.count n.toNat)

end Sys2Proof.Machine
end

