-- ==== Sys2Proof/Machine/ConfigCommands.lean ====
section
/-! DEFINITION. The register and schema-table commands CFG_WRITE, CFG_READ, SCH_WRITE and SCH_READ (43_config.md). -/

namespace Sys2Proof.Machine

/-- CFG_WRITE (43_config.md R241): reserved bits dropped; a write of CFG0 or CFG1 resets the framer, one of CFG2 does not (R243). -/
def execCfgWrite (n : Byte) (v : Word32) (s : State) : Host.Outcome State Fault Refusal :=
  if n = 0 then done (framerReset (setCfg0 s (v &&& cfg0Mask))) []
  else if n = 1 then done (framerReset (setCfg1 s (v &&& cfg1Mask))) []
  else if n = 2 then done (setCfg2 s (v &&& cfg2Mask)) []
  else raise s .badRegister (.reg n)

/-- STAT, computed on read (10_state.md R27; 43_config.md R242). -/
def statValue (s : State) : Word32 :=
  (BitVec.ofNat 32 (rxBusy s) <<< 8) ||| (if txPending s then 1 else 0)

/-- PARAMS (10_state.md R28; 43_config.md R242). -/
def paramsValue (s : State) : Word32 :=
  (BitVec.ofNat 32 s.sch.length <<< 16) ||| BitVec.ofNat 32 s.slots.length

/-- The value of register `n`, if it exists (10_state.md R24-R28). -/
def registerValue (s : State) (n : Byte) : Option Word32 :=
  if n = 0 then some s.cfg0
  else if n = 1 then some s.cfg1
  else if n = 2 then some s.cfg2
  else if n = 3 then some (statValue s)
  else if n = 4 then some (paramsValue s)
  else none

/-- CFG_READ (R242). -/
def execCfgRead (n : Byte) (s : State) : Host.Outcome State Fault Refusal :=
  match registerValue s n with
  | some v => done s [.result (.reg v)]
  | none => raise s .badRegister (.reg n)

/-- SCH_WRITE: the value under `WMask(w)`; nothing is validated (R244). -/
def execSchWrite (k w : Byte) (v : Word64) (s : State) : Host.Outcome State Fault Refusal :=
  match s.sch[k.toNat]? with
  | none => raise s .badSchema (.index k.toNat)
  | some e =>
    if 17 < w.toNat then raise s .badRegister (.word w)
    else done (setSch s (s.sch.set k.toNat (setWord e w.toNat (v &&& schMask w.toNat)))) []

/-- SCH_READ (R245). -/
def execSchRead (k w : Byte) (s : State) : Host.Outcome State Fault Refusal :=
  match s.sch[k.toNat]? with
  | none => raise s .badSchema (.index k.toNat)
  | some e =>
    if 17 < w.toNat then raise s .badRegister (.word w)
    else done s [.result (.word (wordAt e w.toNat))]

end Sys2Proof.Machine
end

