-- ==== Sys2Proof/Machine/FramerTx.lean ====
section
/-! DEFINITION. The framer's send side: TP_SEND and the flow-control handler RxFC with its drain (42_framer_tx.md). -/

namespace Sys2Proof.Machine

/-! ## TP_SEND -/

/-- How a TP_SEND ends: OK, or OK_SUPERSEDED when a segment was pending (42_framer_tx.md R214). -/
def sendStatus (s : State) : Code × Info :=
  match s.tx with
  | .none => (.ok, .empty)
  | .pending old _ _ => (.okSuperseded, .oldRecipient old)

/-- The single frame of a payload of 1..6 bytes (R210, R212). -/
def sfFrame (s : State) (r : Byte) (p : List Byte) : RawFrame :=
  txFrameOf s (padTo8 (pad s) (r :: BitVec.ofNat 8 p.length :: p))

/-- The first frame of a payload of 7..4095 bytes (R215). -/
def ffFrame (s : State) (r : Byte) (p : List Byte) : RawFrame :=
  txFrameOf s (padTo8 (pad s)
    (r :: ((0x1#4) ++ (BitVec.ofNat 12 p.length).extractLsb' 8 4) :: (BitVec.ofNat 12 p.length).extractLsb' 0 8 :: p.take 5))

/-- TP_SEND (R210): a payload of 1..6 bytes is one SF; a longer one is an FF now, the rest pending with SN 1 (R212, R216). -/
def execTpSend (r : Byte) (p : List Byte) (s : State) : Host.Outcome State Fault Refusal :=
  if !enabled s then raise s .notConfigured .empty
  else if p.length = 0 ∨ Config.maxPayload < p.length then raise s .payloadLength (.length p.length)
  else if p.length ≤ 6 then
    finish (setTx s .none) [.txFrame (sfFrame s r p)] (sendStatus s).1 (sendStatus s).2
  else
    finish (setTx s (.pending r (p.drop 5) 1)) [.txFrame (ffFrame s r p)] (sendStatus s).1 (sendStatus s).2

/-! ## Flow control -/

/-- The consecutive frame that carries `chunk` (R222). -/
def cfFrame (s : State) (r : Byte) (sn : Nibble) (chunk : List Byte) : RawFrame :=
  txFrameOf s (padTo8 (pad s) (r :: ((0x2#4) ++ sn) :: chunk))

/-- The frames of `Drain()` (R222): while bytes remain, a frame of up to 6 of them, the sequence number rising mod 16. The loop
runs at most `fuel` times; one per remaining byte is enough. -/
def drainFrames (s : State) (r : Byte) (fuel : Nat) (rem : List Byte) (sn : Nibble) : List RawFrame :=
  match fuel with
  | 0 => []
  | fuel + 1 =>
    if rem = [] then []
    else cfFrame s r sn (rem.take 6) :: drainFrames s r fuel (rem.drop 6) (sn + 1)

/-- Send every remaining frame of the pending segment and clear it (R222). -/
def drain (s : State) (r : Byte) (rem : List Byte) (sn : Nibble) : Host.Outcome State Fault Refusal :=
  done (setTx s .none) ((drainFrames s r rem.length rem sn).map .txFrame)

/-- RxFC: an accepted FC from `who` with flow status `fs`; its BS and STmin are not used (R221, R226). -/
def rxFc (who : Byte) (fs : Nibble) (s : State) : Host.Outcome State Fault Refusal :=
  if strict s ∧ 2 < fs.toNat then raise s .invalidFcStatus (.flowStatus fs)
  else
    match s.tx with
    | .none => raise s .unexpectedFc (.sender who)
    | .pending r rem sn =>
      if r ≠ who then raise s .unexpectedFc (.sender who)
      else if !strict s ∨ fs = 0 then drain s r rem sn
      else if fs = 1 then finish s [] .ok .wait
      else finish (setTx s .none) [] .txAborted (.recipient who)

end Sys2Proof.Machine
end

