-- ==== Sys2Proof/Machine/FramerRx.lean ====
section
/-! DEFINITION. The framer's receive side: TP_RX, the four frame kinds, TP_CLASSIFY and TP_DISCARD (41_framer_rx.md). -/

namespace Sys2Proof.Machine

/-! ## Acceptance -/

/-- `Accept(f)`: the first failing check, if any (41_framer_rx.md R162). -/
def acceptError (f : RawFrame) (s : State) : Option (Code × Info) :=
  if !enabled s then some (.notConfigured, .empty)
  else if !wellFormedFrame f then some (.malformedFrame, .empty)
  else if f.ext ∨ f.id.extractLsb' 8 3 ≠ (baseId s).extractLsb' 8 3 then some (.notAddressed, .reasonId f.id f.ext)
  else if f.dlc ≠ 8 then some (.lengthMismatch, .lengths 8 f.dlc.toNat)
  else if f.data[0] ≠ localAddr s then some (.notAddressed, .reasonRecipient f.data[0])
  else none

/-! ## The handlers of the frame kinds -/

/-- RxSF: an accepted SF is delivered at once; no state is written (R166, R168). -/
def rxSf (who : Byte) (p : List Byte) (s : State) : Host.Outcome State Fault Refusal := done s [.rxPayload who p]

/-- `SelectSlotFF(who)`: slot 0 in SINGLE mode; else the slot of the sender, else the least IDLE one, else none (R170). -/
def selectSlotFf (who : Byte) (s : State) : Option Nat :=
  if !perPeer s then some 0
  else
    match slotOfSender s who with
    | some k => some k
    | none => leastIdle s

/-- How an RxFF on slot `k` ends: OK, or OK_SUPERSEDED when the slot was RECEIVING (R172). -/
def ffStatus (s : State) (k : Nat) : Code × Info :=
  match slotAt s k with
  | .idle => (.ok, .empty)
  | .receiving r => (.okSuperseded, .oldSender r.sender)

/-- The reassembly an FF of length `len` starts (R175, R177). -/
def startReassembly (who : Byte) (len : Length12) (chunk : List Byte) : Reassembly :=
  { sender := who, dl := len, buf := chunk, out := BitVec.ofNat 12 (len.toNat - chunk.length), nsn := 1 }

/-- RxFF: an accepted FF starts, or completes, a reassembly (R169). -/
def rxFf (who : Byte) (len : Length12) (chunk : List Byte) (s : State) : Host.Outcome State Fault Refusal :=
  match selectSlotFf who s with
  | none => raise s .noSlot (.sender who)
  | some k =>
    if len.toNat - chunk.length = 0 then
      finish (setSlot s k .idle) [.rxPayload who chunk] (ffStatus s k).1 (ffStatus s k).2
    else
      finish (setSlot s k (.receiving (startReassembly who len chunk))) [.txFrame (fcFrame s who)]
        (ffStatus s k).1 (ffStatus s k).2

/-- The number of bytes an accepted CF carries, `min(out, 6)` (R182). -/
def cfCount (r : Reassembly) : Nat := min r.out.toNat 6

/-- A reassembly after an accepted CF: bytes appended, `out` decreased, the next SN one up mod 16 (R182, R183). -/
def appendCf (r : Reassembly) (b : Vector Byte 6) : Reassembly :=
  { sender := r.sender
    dl := r.dl
    buf := r.buf ++ b.toList.take (cfCount r)
    out := BitVec.ofNat 12 (r.out.toNat - cfCount r)
    nsn := r.nsn + 1 }

/-- RxCF once its slot `k` is known to hold reassembly `r`: the sequence check (R181), the append, and delivery when nothing is
outstanding (R184). -/
def cfIntoSlot (who : Byte) (sn : Nibble) (b : Vector Byte 6) (k : Nat) (r : Reassembly) (s : State) :
    Host.Outcome State Fault Refusal :=
  if sn ≠ r.nsn then raise (setSlot s k .idle) .protocolViolationSequence (.sequence who r.nsn sn)
  else if (appendCf r b).out = 0 then done (setSlot s k .idle) [.rxPayload who (appendCf r b).buf]
  else done (setSlot s k (.receiving (appendCf r b))) []

/-- RxCF: an accepted CF continues a reassembly (R178). -/
def rxCf (who : Byte) (sn : Nibble) (b : Vector Byte 6) (s : State) : Host.Outcome State Fault Refusal :=
  if !perPeer s then
    match slotAt s 0 with
    | .idle => raise s .unexpectedCf (.sender who)
    | .receiving r =>
      if r.sender ≠ who then raise (setSlot s 0 .idle) .protocolViolationSender (.senders r.sender who)
      else cfIntoSlot who sn b 0 r s
  else
    match slotOfSender s who with
    | none => raise s .unexpectedCf (.sender who)
    | some k =>
      match slotAt s k with
      | .idle => raise s .unexpectedCf (.sender who)
      | .receiving r => cfIntoSlot who sn b k r s

/-- The `case` of TP_RX on a classified frame from `who` (R161). -/
def rxClassified (who : Byte) (p : Pci) (s : State) : Host.Outcome State Fault Refusal :=
  match p with
  | .err c info => raise s c info
  | .sf bytes _ => rxSf who bytes s
  | .ff len chunk => rxFf who len chunk s
  | .cf sn b => rxCf who sn b s
  | .fc fs _ _ => rxFc who fs s

/-! ## TP_RX and the frame kinds -/

/-- TP_RX (R161). -/
def execTpRx (f : RawFrame) (s : State) : Host.Outcome State Fault Refusal :=
  match acceptError f s with
  | some e => raise s e.1 e.2
  | none => rxClassified (senderOf f) (classifyPci f.data) s

/-- A single frame of an accepted TP_RX (R164, R166, R167). -/
def execIsotpSf (sender : Byte) (dl : Nibble) (b : Vector Byte 6) (s : State) : Host.Outcome State Fault Refusal :=
  rxClassified sender (sfPci dl b) s

/-- A first frame of an accepted TP_RX (R164, R169, R174). -/
def execIsotpFf (sender : Byte) (len : Length12) (b : Vector Byte 5) (s : State) : Host.Outcome State Fault Refusal :=
  rxClassified sender (ffPci len b) s

/-- A consecutive frame of an accepted TP_RX (R164, R178). -/
def execIsotpCf (sender : Byte) (sn : Nibble) (b : Vector Byte 6) (s : State) : Host.Outcome State Fault Refusal :=
  rxClassified sender (cfPci sn b) s

/-- A flow-control frame of an accepted TP_RX; its padding is not looked at (R164; 42_framer_tx.md R221, R226). -/
def execIsotpFc (sender : Byte) (fs : Nibble) (bs st : Byte) (s : State) : Host.Outcome State Fault Refusal :=
  rxClassified sender (fcPci fs bs st) s

/-! ## TP_CLASSIFY -/

/-- The Pci result of a classified frame, or its error (R188). -/
def classifyResult (f : RawFrame) (p : Pci) (s : State) : Host.Outcome State Fault Refusal :=
  match p with
  | .err c info => raise s c info
  | .sf bytes n => done s [.result (.pci .sf f.data[0] (senderOf f) f.ext (n.setWidth 12) 0 0 bytes)]
  | .ff len chunk => done s [.result (.pci .ff f.data[0] (senderOf f) f.ext len 0 0 chunk)]
  | .cf sn b => done s [.result (.pci .cf f.data[0] (senderOf f) f.ext (sn.setWidth 12) 0 0 b.toList)]
  | .fc fs bs st => done s [.result (.pci .fc f.data[0] (senderOf f) f.ext (fs.setWidth 12) bs st [])]

/-- TP_CLASSIFY (R188). -/
def execTpClassify (f : RawFrame) (s : State) : Host.Outcome State Fault Refusal :=
  if !wellFormedFrame f then raise s .malformedFrame .empty
  else if f.dlc ≠ 8 then raise s .lengthMismatch (.lengths 8 f.dlc.toNat)
  else classifyResult f (classifyPci f.data) s

/-! ## TP_DISCARD -/

/-- The slot is one TP_DISCARD empties (R189). -/
def discards (who : Byte) (all : Bool) (v : Slot) : Bool := isReceiving v && (all || receivesFrom who v)

/-- TP_DISCARD (R189). -/
def execTpDiscard (who : Byte) (all : Bool) (s : State) : Host.Outcome State Fault Refusal :=
  if !enabled s then raise s .notConfigured .empty
  else
    finish (setSlots s (s.slots.map (fun v => if discards who all v then .idle else v))) []
      .ok (.discarded (s.slots.countP (discards who all)))

end Sys2Proof.Machine
end

