-- ==== Sys2Proof/Machine/Dispatch.lean ====
section
/-! DEFINITION. One arm per instruction: the command processor's dispatch (30_encoding.md R82; 41_framer_rx.md R161). -/

namespace Sys2Proof.Machine

def exec (i : Instr) (s : State) : Host.Outcome State Fault Refusal :=
  match i with
  | .codecDecode k f => Sys2Proof.Machine.execCodecDecode k f s
  | .codecEncode k sender m v => Sys2Proof.Machine.execCodecEncode k sender m v s
  | .codecClassify k n f => Sys2Proof.Machine.execCodecClassify k n f s
  | .tpRx f => Sys2Proof.Machine.execTpRx f s
  | .tpSend r p => Sys2Proof.Machine.execTpSend r p s
  | .tpClassify f => Sys2Proof.Machine.execTpClassify f s
  | .tpDiscard who all => Sys2Proof.Machine.execTpDiscard who all s
  | .cfgWrite n v => Sys2Proof.Machine.execCfgWrite n v s
  | .cfgRead n => Sys2Proof.Machine.execCfgRead n s
  | .schWrite k w v => Sys2Proof.Machine.execSchWrite k w v s
  | .schRead k w => Sys2Proof.Machine.execSchRead k w s
  | .isotpSf sender dl b => Sys2Proof.Machine.execIsotpSf sender dl b s
  | .isotpFf sender len b => Sys2Proof.Machine.execIsotpFf sender len b s
  | .isotpCf sender sn b => Sys2Proof.Machine.execIsotpCf sender sn b s
  | .isotpFc sender fs bs st _ => Sys2Proof.Machine.execIsotpFc sender fs bs st s

end Sys2Proof.Machine
end

