-- ==== Sys2Proof/Machine/Step.lean ====
section
/-! DEFINITION. One step: the host's next input. A command is decoded and run (00_scope.md R10); a header or operand the block refuses ends
in ILLEGAL_COMMAND (30_encoding.md R83, R84); a reset event resets (70_reset_and_hazards.md R290). -/

namespace Sys2Proof.Machine

/-- One step of the block. -/
def step (s : State) : Host.Outcome State Fault Refusal :=
  match s.input with
  | [] => .fault .endOfRun
  | .reset :: rest => .next (setInput (resetEvent s) rest)
  | .command bytes :: rest =>
    match decode bytes with
    | .instr i => exec i (takeInput s rest)
    | .reject (.unknownOpcode opc) => raise (takeInput s rest) .illegalCommand (.opc opc)
    | .reject (.reservedHeader opc) => raise (takeInput s rest) .illegalCommand (.opc opc)
    | .reject (.reservedOperand opc) => raise (takeInput s rest) .illegalCommand (.opc opc)
    | .reject .shortHeader => .refused .notACommand
    | .reject .shortOperand => .refused .notACommand
    | .reject .longOperand => .refused .notACommand

/-- The state in which the host's next command is the one a table row's word spells (`placeTableWord`; log 10). -/
def State.withFetchWord (s : State) (nbits w : Nat) : State := placeTableWord s nbits w

end Sys2Proof.Machine
end

