-- ==== Sys2Proof/Machine/Flags.lean ====
section
/-! DEFINITION. The block has no flags or condition codes (10_state.md R22): a command's outcome is its Status event. This file holds what
the spec says of the status codes: their numbers and classes (60_exceptions.md R261, R262). -/

namespace Sys2Proof.Machine

/-- The number of a status code (60_exceptions.md R261). -/
def codeNumber (c : Code) : Byte :=
  match c with
  | .ok => 0x00
  | .okSuperseded => 0x01
  | .txAborted => 0x02
  | .addressMismatch => 0x10
  | .lengthMismatch => 0x11
  | .fieldConstraintViolation => 0x12
  | .noMatch => 0x13
  | .notAddressed => 0x14
  | .protocolViolationSequence => 0x20
  | .protocolViolationSender => 0x21
  | .unexpectedCf => 0x22
  | .unexpectedFc => 0x23
  | .invalidFrameType => 0x24
  | .invalidSfLength => 0x25
  | .invalidFfLength => 0x26
  | .invalidFcStatus => 0x27
  | .noSlot => 0x28
  | .payloadLength => 0x30
  | .notConfigured => 0x31
  | .illegalCommand => 0x40
  | .malformedFrame => 0x41
  | .badSchema => 0x42
  | .badRegister => 0x43

/-- The class of a status code (R261). -/
inductive CodeClass where
  | success | messageError | protocolViolation | commandError
  deriving DecidableEq, Repr

/-- The class column of R261. -/
def codeClass (c : Code) : CodeClass :=
  match c with
  | .ok | .okSuperseded | .txAborted => .success
  | .addressMismatch | .lengthMismatch | .fieldConstraintViolation | .noMatch | .notAddressed => .messageError
  | .protocolViolationSequence | .protocolViolationSender | .unexpectedCf | .unexpectedFc | .invalidFrameType
  | .invalidSfLength | .invalidFfLength | .invalidFcStatus | .noSlot => .protocolViolation
  | .payloadLength | .notConfigured | .illegalCommand | .malformedFrame | .badSchema | .badRegister => .commandError

/-- The code is an error: "Success codes are not errors" (R262). -/
def isError (c : Code) : Bool := codeClass c != .success

/-- An error that resets a slot: "only codes 0x20 and 0x21 reset a slot" (R262). -/
def resetsSlot (c : Code) : Bool := c == .protocolViolationSequence || c == .protocolViolationSender

/-- Whether an info record has the shape R261 gives a code. -/
def infoFits (c : Code) (info : Info) : Bool :=
  match c, info with
  | .ok, .empty => true
  | .ok, .discarded _ => true
  | .ok, .wait => true
  | .okSuperseded, .oldSender _ => true
  | .okSuperseded, .oldRecipient _ => true
  | .txAborted, .recipient _ => true
  | .addressMismatch, .address _ _ _ _ => true
  | .lengthMismatch, .lengths _ _ => true
  | .fieldConstraintViolation, .field _ _ _ => true
  | .noMatch, .count _ => true
  | .notAddressed, .reasonId _ _ => true
  | .notAddressed, .reasonRecipient _ => true
  | .protocolViolationSequence, .sequence _ _ _ => true
  | .protocolViolationSender, .senders _ _ => true
  | .unexpectedCf, .sender _ => true
  | .unexpectedFc, .sender _ => true
  | .invalidFrameType, .frameType _ => true
  | .invalidSfLength, .length _ => true
  | .invalidFfLength, .length _ => true
  | .invalidFcStatus, .flowStatus _ => true
  | .noSlot, .sender _ => true
  | .payloadLength, .length _ => true
  | .notConfigured, .empty => true
  | .illegalCommand, .opc _ => true
  | .malformedFrame, .empty => true
  | .badSchema, .index _ => true
  | .badRegister, .reg _ => true
  | .badRegister, .word _ => true
  | _, _ => false

end Sys2Proof.Machine
end

