-- ==== Sys2Proof/Machine/Pseudo.lean ====
section
/-! DEFINITION. The pseudo-commands TP_DISCARD ALL, TP_CONFIG and SCH_LOAD as the core commands they expand to (30_encoding.md R92), and
running a list of instructions one after another (20_memory.md R71). -/

namespace Sys2Proof.Machine

/-- `TP_DISCARD ALL`: A = 0, B = 1. -/
def discardAll : List Instr := [.tpDiscard 0 true]

/-- A flag as a 32-bit number. -/
def flag32 (b : Bool) : Word32 := if b then 1 else 0

/-- A flag as a 64-bit number. -/
def flag64 (b : Bool) : Word64 := if b then 1 else 0

/-- `TP_CONFIG addr, mode, fcpol, pad`; `mode` true is PER_PEER, `fcpol` true is STRICT. -/
def tpConfig (addr : Byte) (mode fcpol : Bool) (padByte : Byte) : List Instr :=
  [.cfgWrite 0 ((padByte.setWidth 32 <<< 16) ||| (addr.setWidth 32 <<< 8) ||| (flag32 fcpol <<< 2) ||| (flag32 mode <<< 1) ||| 1)]

/-- One field of an SCH_LOAD. -/
structure FieldSpec where
  width : Nibble
  little : Bool
  signed : Bool
  const : Bool
  value : Word64
  deriving DecidableEq, Repr

/-- The descriptor word of a field: `width | order<<4 | signed<<5 | const<<6`. -/
def fieldSpecDesc (f : FieldSpec) : Word64 :=
  f.width.setWidth 64 ||| (flag64 f.little <<< 4) ||| (flag64 f.signed <<< 5) ||| (flag64 f.const <<< 6)

/-- The descriptor and value writes of the fields from index `i` on. -/
def schLoadFields (k : Byte) (i : Nat) (fields : List FieldSpec) : List Instr :=
  match fields with
  | [] => []
  | f :: fs =>
    .schWrite k (BitVec.ofNat 8 (2 + i)) (fieldSpecDesc f) :: .schWrite k (BitVec.ofNat 8 (10 + i)) f.value
      :: schLoadFields k (i + 1) fs

/-- The header word an SCH_LOAD writes last: `1 | ext<<1 | idmode<<2 | n<<3`. -/
def schLoadHeader (ext addressed : Bool) (n : Nat) : Word64 :=
  1 ||| (flag64 ext <<< 1) ||| (flag64 addressed <<< 2) ||| (BitVec.ofNat 64 n <<< 3)

/-- `SCH_LOAD s<k>`: W0 = 0 first, then the identifier and the fields, W0 with VALID last. An entry has at most 8 fields (10_state.md R31) and
R92 says nothing of a longer list: its expansion is written out all the same (DESIGN CHOICE, log 12, safe). -/
def schLoad (k : Byte) (ext addressed : Bool) (id : CanId) (fields : List FieldSpec) : List Instr :=
  [.schWrite k 0 0, .schWrite k 1 (id.setWidth 64)] ++ schLoadFields k 0 fields
    ++ [.schWrite k 0 (schLoadHeader ext addressed fields.length)]

/-- Run instructions one after another; none if one does not answer a next state. -/
def runAll (is : List Instr) (s : State) : Option State :=
  match is with
  | [] => some s
  | i :: is =>
    match exec i s with
    | .next t => runAll is t
    | .fault _ => none
    | .refused _ => none

end Sys2Proof.Machine
end

