-- ==== Sys2Proof/Safety.lean ====
section
/-! DEFINITION. What counts as a legal state and how statements speak of a run: the invariant of 10_state.md (R6, R29, R31, R32, R37, R39), the
events a run adds, and an exchange between two endpoints (41_framer_rx.md R190). -/

namespace Sys2Proof.Machine

/-! ## The invariant -/

/-- Reserved bits of the configuration registers read 0 (10_state.md R29). -/
def registersLegal (s : State) : Prop :=
  s.cfg0 &&& ~~~cfg0Mask = 0 ∧ s.cfg1 &&& ~~~cfg1Mask = 0 ∧ s.cfg2 &&& ~~~cfg2Mask = 0

/-- Reserved bits of schema words read 0 (R31, R32). -/
def schemasLegal (s : State) : Prop :=
  ∀ e ∈ s.sch, ∀ w, w < 18 → wordAt e w &&& ~~~schMask w = 0

/-- The parameters are in their range (00_scope.md R6). -/
def parametersLegal (s : State) : Prop :=
  1 ≤ s.slots.length ∧ s.slots.length ≤ 256 ∧ 1 ≤ s.sch.length ∧ s.sch.length ≤ 256

/-- A RECEIVING slot: `len(buf) + out = dl`, `out >= 1`, `len(buf) >= 5` (R37). -/
def reassemblyLegal (r : Reassembly) : Prop :=
  r.buf.length + r.out.toNat = r.dl.toNat ∧ 1 ≤ r.out.toNat ∧ 5 ≤ r.buf.length

/-- R37: every reassembly is legal; in SINGLE mode only slot 0 receives; in PER_PEER mode no two slots receive from one sender. -/
def slotsLegal (s : State) : Prop :=
  (∀ (k : Nat) (r : Reassembly), s.slots[k]? = some (Slot.receiving r) → reassemblyLegal r) ∧
  (perPeer s = false → ∀ (k : Nat) (r : Reassembly), s.slots[k]? = some (Slot.receiving r) → k = 0) ∧
  (perPeer s = true → ∀ (j k : Nat) (q r : Reassembly), s.slots[j]? = some (Slot.receiving q) → s.slots[k]? = some (Slot.receiving r) →
    q.sender = r.sender → j = k)

/-- A pending segment holds 2..4090 bytes (R39). -/
def segmentLegal (s : State) : Prop :=
  match s.tx with
  | .none => True
  | .pending _ rem _ => 2 ≤ rem.length ∧ rem.length ≤ 4090

/-- The invariant of the block. -/
def Inv (s : State) : Prop :=
  registersLegal s ∧ schemasLegal s ∧ parametersLegal s ∧ slotsLegal s ∧ segmentLegal s

/-! ## Events of a run -/

/-- The events of `t` that `s` did not have, when `t` comes after `s`. -/
def newEvents (s t : State) : List Event := t.outs.drop s.outs.length

/-- The frames among events. -/
def txFramesOf (es : List Event) : List RawFrame :=
  es.filterMap (fun e => match e with | .txFrame f => some f | .rxPayload _ _ => none | .result _ => none | .status _ _ => none)

/-- The payloads among events. -/
def payloadsOf (es : List Event) : List (Byte × List Byte) :=
  es.filterMap (fun e => match e with | .rxPayload who p => some (who, p) | .txFrame _ => none | .result _ => none | .status _ _ => none)

/-- The event is a Status. -/
def isStatus (e : Event) : Bool :=
  match e with
  | .status _ _ => true
  | .txFrame _ => false
  | .rxPayload _ _ => false
  | .result _ => false

/-- The event is a frame or a payload. -/
def isTraffic (e : Event) : Bool :=
  match e with
  | .txFrame _ => true
  | .rxPayload _ _ => true
  | .result _ => false
  | .status _ _ => false

/-! ## Conditions on frames, schemas and slots, as the rules word them -/

/-- A well-formed frame: `dlc <= 8` and a standard identifier below 0x800 (00_scope.md R12). -/
def frameLegal (f : RawFrame) : Prop := f.dlc.toNat ≤ 8 ∧ (f.ext = false → f.id.toNat < 0x800)

/-- A frame TP_RX accepts: EN set, standard identifier in the BASE_ID range, `dlc` 8, this endpoint the recipient (41_framer_rx.md R162). -/
def acceptable (f : RawFrame) (s : State) : Prop :=
  enabled s = true ∧ f.ext = false ∧ f.id.toNat < 0x800 ∧ f.id.extractLsb' 8 3 = (baseId s).extractLsb' 8 3 ∧
  f.dlc = 8 ∧ f.data[0] = localAddr s

/-- `SchemaValid(k)`, with `e` the entry (10_state.md R34). -/
def schemaValid (s : State) (k : Nat) (e : SchemaEntry) : Prop :=
  s.sch[k]? = some e ∧ entryIsValid e = true ∧ entryFields e ≤ 8 ∧
  (∀ i, i < entryFields e → 1 ≤ fieldWidth e i ∧ fieldWidth e i ≤ 8) ∧ entryLen e ≤ 8 ∧
  (entryExt e = false → (entryId e).toNat < 0x800)

/-- The identifier check of decode passes (40_codec.md R122). -/
def addressFits (e : SchemaEntry) (f : RawFrame) : Prop :=
  entryAddressed e = false → f.ext = entryExt e ∧ f.id = entryId e

/-- Field `i` is a filter whose required bits the data does not have (R125). -/
def filterFails (e : SchemaEntry) (data : Vector Byte 8) (i : Nat) : Prop :=
  fieldConst e i = true ∧ fieldRaw e i data ≠ lowBytes (fieldWidth e i) (fieldDefault e i)

/-- The frame matches the schema: address, length and every filter (R126). -/
def frameMatches (e : SchemaEntry) (f : RawFrame) : Prop :=
  addressFits e f ∧ f.dlc.toNat = entryLen e ∧ ∀ i, i < entryFields e → ¬ filterFails e f.data i

/-- No slot is receiving from `who`. -/
def noneReceivingFrom (who : Byte) (s : State) : Prop := ∀ r, Slot.receiving r ∈ s.slots → r.sender ≠ who

/-- Slot `k` is the one an FF from `who` uses (41_framer_rx.md R170). -/
def ffSlot (who : Byte) (s : State) (k : Nat) : Prop :=
  (perPeer s = false → k = 0 ∧ 0 < s.slots.length) ∧
  (perPeer s = true →
    (∃ r, s.slots[k]? = some (Slot.receiving r) ∧ r.sender = who) ∨
    (noneReceivingFrom who s ∧ s.slots[k]? = some Slot.idle ∧ ∀ j, j < k → s.slots[j]? ≠ some Slot.idle))

/-- Slot `k` holds the reassembly `r` a CF from `who` continues (R178). -/
def cfSlot (who : Byte) (s : State) (k : Nat) (r : Reassembly) : Prop :=
  s.slots[k]? = some (Slot.receiving r) ∧ r.sender = who ∧ (perPeer s = false → k = 0)

/-- How an FF on slot `k` ends (R172). -/
def ffEnding (s : State) (k : Nat) : Event :=
  match s.slots[k]? with
  | some (.receiving r) => .status .okSuperseded (.oldSender r.sender)
  | some .idle => .status .ok .empty
  | none => .status .ok .empty

/-- How a TP_SEND ends (42_framer_tx.md R214). -/
def sendEnding (s : State) : Event :=
  match s.tx with
  | .pending old _ _ => .status .okSuperseded (.oldRecipient old)
  | .none => .status .ok .empty

/-- A frame the framer sends, with data `d` (42_framer_tx.md R213). -/
def sentFrame (s : State) (d : Vector Byte 8) : RawFrame :=
  { id := (baseId s ||| (localAddr s).setWidth 11).setWidth 29, ext := false, dlc := 8, data := d }

/-! ## Kinds of instruction -/

/-- The commands that change no state (20_memory.md R68). -/
def readsOnly (i : Instr) : Bool :=
  match i with
  | .codecDecode _ _ => true
  | .codecEncode _ _ _ _ => true
  | .codecClassify _ _ _ => true
  | .tpClassify _ => true
  | .cfgRead _ => true
  | .schRead _ _ => true
  | .tpRx _ => false
  | .tpSend _ _ => false
  | .tpDiscard _ _ => false
  | .cfgWrite _ _ => false
  | .schWrite _ _ _ => false
  | .isotpSf _ _ _ => false
  | .isotpFf _ _ _ => false
  | .isotpCf _ _ _ => false
  | .isotpFc _ _ _ _ _ => false

/-- The codec commands (40_codec.md). -/
def isCodec (i : Instr) : Bool :=
  match i with
  | .codecDecode _ _ => true
  | .codecEncode _ _ _ _ => true
  | .codecClassify _ _ _ => true
  | .tpRx _ => false
  | .tpSend _ _ => false
  | .tpClassify _ => false
  | .tpDiscard _ _ => false
  | .cfgWrite _ _ => false
  | .cfgRead _ => false
  | .schWrite _ _ _ => false
  | .schRead _ _ => false
  | .isotpSf _ _ _ => false
  | .isotpFf _ _ _ => false
  | .isotpCf _ _ _ => false
  | .isotpFc _ _ _ _ _ => false

/-- The framer's commands and frame kinds (41_framer_rx.md, 42_framer_tx.md). -/
def isFramer (i : Instr) : Bool :=
  match i with
  | .tpRx _ => true
  | .tpSend _ _ => true
  | .tpClassify _ => true
  | .tpDiscard _ _ => true
  | .isotpSf _ _ _ => true
  | .isotpFf _ _ _ => true
  | .isotpCf _ _ _ => true
  | .isotpFc _ _ _ _ _ => true
  | .codecDecode _ _ => false
  | .codecEncode _ _ _ _ => false
  | .codecClassify _ _ _ => false
  | .cfgWrite _ _ => false
  | .cfgRead _ => false
  | .schWrite _ _ _ => false
  | .schRead _ _ => false

/-! ## Exchanges -/

/-- Hand frames to an endpoint, one TP_RX each, in order. -/
def feed (fs : List RawFrame) (s : State) : Option State := runAll (fs.map .tpRx) s

/-- One exchange (R190): `a` sends `p` to `peer`; its frames go to `b`; what `b` sends back goes to `a`; what that makes `a` send
goes to `b`. The answer is `b` at the end. -/
def exchange (a b : State) (peer : Byte) (p : List Byte) : Option State :=
  match runAll [.tpSend peer p] a with
  | none => none
  | some a1 =>
    match feed (txFramesOf (newEvents a a1)) b with
    | none => none
    | some b1 =>
      match feed (txFramesOf (newEvents b b1)) a1 with
      | none => none
      | some a2 => feed (txFramesOf (newEvents a1 a2)) b1

/-- The number of consecutive frames that carry `n` bytes: `ceil(n / 6)` (42_framer_tx.md R227). -/
def cfFramesFor (n : Nat) : Nat := (n + 5) / 6

/-- The number of frames of a payload of `len` bytes that starts with an FF (30_encoding.md R104). -/
def framesFor (len : Nat) : Nat := 1 + cfFramesFor (len - 5)

end Sys2Proof.Machine
end

