-- ==== Sys2Proof/Certificates/Slice0/Obligations.lean ====
section
/-! DEFINITION. The statements for the provers. An equation `exec i s = .next { s with … }` says the result, that the instruction
completes, and its frame: every field not named in it is unchanged. -/

open Sys2Proof Sys2Proof.Machine

/-! ## Encoding (30_encoding.md) -/

/-- R80-R89: decoding the bytes of a well-formed command gives that command, with every operand at every value. -/
def Obligations.DecodeOfEncodedCommand : Prop :=
  ∀ (i : Instr) (bs : List Byte), i.wf = true → encode i = some bs → decode bs = .instr i

/-- R80-R89: bytes that decode are the encoding of what they decode to: no bit of a command is ignored. -/
def Obligations.EncodeOfDecodedCommand : Prop :=
  ∀ (i : Instr) (bs : List Byte), decode bs = .instr i → i.wf = true ∧ encode i = some bs

/-- R95-R100: an accepted frame spells a kind exactly when its type nibble is 0..3; the kind gives the frame's data back; and the data of a
kind decode to it. -/
def Obligations.FrameKindRoundTrip : Prop :=
  (∀ (who : Byte) (d : Vector Byte 8), decodeFrame who d = none ↔ 4 ≤ (d[1].extractLsb' 4 4).toNat) ∧
  (∀ (who : Byte) (d : Vector Byte 8) (i : Instr), decodeFrame who d = some i → encodeFrame d[0] i = some d) ∧
  (∀ (r : Byte) (d : Vector Byte 8) (i : Instr), encodeFrame r i = some d → d[0] = r ∧ ∃ who, decodeFrame who d = some i)

/-- R83, with R82's match/mask pairs written out: an opcode that spells no command, or a non-zero reserved header field, is
ILLEGAL_COMMAND and changes nothing; the position advances. -/
def Obligations.IllegalHeaderRefused : Prop :=
  ∀ (s : State) (h : Word32) (ops : List Byte) (rest : List HostInput),
    s.input = .command (bytes32 h ++ ops) :: rest →
    (h.extractLsb' 0 8 ∉ ([0x01, 0x02, 0x03, 0x10, 0x11, 0x12, 0x13, 0x20, 0x21, 0x22, 0x23] : List Byte) ∨
      ∃ row ∈ ([(0x01, 0x00000001, 0xFFFF00FF), (0x02, 0x00000002, 0xFF0000FF), (0x03, 0x00000003, 0xFF0000FF),
          (0x10, 0x00000010, 0xFFFFFFFF), (0x11, 0x00000011, 0xFFFF00FF), (0x12, 0x00000012, 0xFFFFFFFF),
          (0x13, 0x00000013, 0xFFFE00FF), (0x20, 0x00000020, 0xFFFF00FF), (0x21, 0x00000021, 0xFFFF00FF),
          (0x22, 0x00000022, 0xFF0000FF), (0x23, 0x00000023, 0xFF0000FF)] : List (Byte × Word32 × Word32)),
        h.extractLsb' 0 8 = row.1 ∧ h &&& row.2.2 ≠ row.2.1) →
    step s = .next { s with
      input := rest, pos := s.pos + 1, outs := s.outs ++ [.status .illegalCommand (.opc (h.extractLsb' 0 8))] }

/-- R84, R86: after a legal header, a set reserved bit of FW0 or FW1 is ILLEGAL_COMMAND and changes nothing. -/
def Obligations.ReservedOperandRefused : Prop :=
  ∀ (s : State) (h fw0 fw1 : Word32) (d : Vector Byte 8) (rest : List HostInput),
    s.input = .command (bytes32 h ++ bytes32 fw0 ++ bytes32 fw1 ++ d.toList) :: rest →
    (∃ row ∈ ([(0x00000001, 0xFFFF00FF), (0x00000003, 0xFF0000FF), (0x00000010, 0xFFFFFFFF), (0x00000012, 0xFFFFFFFF)] :
        List (Word32 × Word32)), h &&& row.2 = row.1) →
    (fw0.extractLsb' 30 2 ≠ 0 ∨ fw1.extractLsb' 4 28 ≠ 0) →
    step s = .next { s with
      input := rest, pos := s.pos + 1, outs := s.outs ++ [.status .illegalCommand (.opc (h.extractLsb' 0 8))] }

/-- R86, R80: the fields of a FRAME operand with no reserved bit set, for the four commands that carry one. -/
def Obligations.FrameOperandFields : Prop :=
  ∀ (a b : Byte) (fw0 fw1 : Word32) (d : Vector Byte 8), fw0.extractLsb' 30 2 = 0 → fw1.extractLsb' 4 28 = 0 →
    let f : RawFrame := { id := fw0.extractLsb' 0 29, ext := fw0.getLsbD 29, dlc := fw1.extractLsb' 0 4, data := d }
    let ops : List Byte := bytes32 fw0 ++ bytes32 fw1 ++ d.toList
    decode ([0x01, a, 0, 0] ++ ops) = .instr (.codecDecode a f) ∧
    decode ([0x03, a, b, 0] ++ ops) = .instr (.codecClassify a b f) ∧
    decode ([0x10, 0, 0, 0] ++ ops) = .instr (.tpRx f) ∧
    decode ([0x12, 0, 0, 0] ++ ops) = .instr (.tpClassify f)

/-- Words written out from R82-R89 and R96-R99: headers and operands of 95_test_vectors.md, and one frame of each kind. -/
def Obligations.SampleWordsDecode : Prop :=
  decode [0x20, 0x00, 0x00, 0x00, 0x03, 0x40, 0x00, 0x00] = .instr (.cfgWrite 0 0x00004003) ∧
  decode [0x21, 0x03, 0x00, 0x00] = .instr (.cfgRead 3) ∧
  decode [0x13, 0x12, 0x00, 0x00] = .instr (.tpDiscard 0x12 false) ∧
  decode [0x13, 0x00, 0x01, 0x00] = .instr (.tpDiscard 0 true) ∧
  decode [0x22, 0x00, 0x01, 0x00, 0xf0, 0xff, 0xff, 0x1f, 0, 0, 0, 0] = .instr (.schWrite 0 1 0x1ffffff0) ∧
  decode [0x11, 0xf1, 0x00, 0x00, 0x02, 0x00, 0x5a, 0x80] = .instr (.tpSend 0xf1 [0x5a, 0x80]) ∧
  decode [0x10, 0, 0, 0, 0x12, 0x06, 0, 0, 0x08, 0, 0, 0, 0x40, 0x10, 0x0e, 0x2c, 0x10, 0x03, 0x85, 0x04] =
    .instr (.tpRx ⟨0x612, false, 8, #v[0x40, 0x10, 0x0e, 0x2c, 0x10, 0x03, 0x85, 0x04]⟩) ∧
  decodeFrame 0x12 #v[0x40, 0x03, 0x01, 0x02, 0x03, 0xaa, 0xaa, 0xaa] =
    some (.isotpSf 0x12 3 #v[0x01, 0x02, 0x03, 0xaa, 0xaa, 0xaa]) ∧
  decodeFrame 0x12 #v[0x40, 0x1f, 0xff, 0x00, 0x01, 0x02, 0x03, 0x04] = some (.isotpFf 0x12 4095 #v[0, 1, 2, 3, 4]) ∧
  decodeFrame 0x12 #v[0x40, 0x21, 0x1b, 0x07, 0x6f, 0x06, 0x6d, 0x0a] =
    some (.isotpCf 0x12 1 #v[0x1b, 0x07, 0x6f, 0x06, 0x6d, 0x0a]) ∧
  decodeFrame 0xf1 #v[0x12, 0x30, 0x08, 0x64, 0, 0, 0, 0] = some (.isotpFc 0xf1 0 0x08 0x64 #v[0, 0, 0, 0])

/-! ## Steps (00_scope.md R10; 10_state.md R21; 70_reset_and_hazards.md R290) -/

/-- A step runs the decoded command: it takes the host's input, advances the position, and is `exec` there. -/
def Obligations.StepRunsDecodedInstr : Prop :=
  ∀ (s : State) (bytes : List Byte) (rest : List HostInput) (i : Instr),
    s.input = .command bytes :: rest → decode bytes = .instr i →
    step s = exec i { s with input := rest, pos := s.pos + 1 }

/-- Where a step stops: nothing issued (log 3), or bytes that are not one header and its operand block (log 5). Both are the model's. -/
def Obligations.StepStopsOutsideCommands : Prop :=
  (∀ s : State, s.input = [] → step s = .fault .endOfRun) ∧
  (∀ (s : State) (bytes : List Byte) (rest : List HostInput), s.input = .command bytes :: rest →
    (decode bytes = .reject .shortHeader ∨ decode bytes = .reject .shortOperand ∨ decode bytes = .reject .longOperand) →
    step s = .refused .notACommand)

/-- R290: the reset event puts every piece of state of R43 at its reset value, sets the position to 0 and emits nothing. That `input` and
`outs` are kept is the model's choice (log 9). -/
def Obligations.StepOnResetEvent : Prop :=
  ∀ (s : State) (rest : List HostInput), s.input = .reset :: rest →
    step s = .next
      { cfg0 := 0x00000002, cfg1 := 0x00000600, cfg2 := 0x00000100
        sch := List.replicate s.sch.length { words := Vector.replicate 18 0 }
        slots := List.replicate s.slots.length .idle
        tx := .none, pos := 0, input := rest, outs := s.outs }

/-- R21: whatever a command's status, the position advances by exactly one and one input is taken. -/
def Obligations.PositionAdvancesByOne : Prop :=
  ∀ (s t : State) (bytes : List Byte) (rest : List HostInput),
    s.input = .command bytes :: rest → step s = .next t → t.pos = s.pos + 1 ∧ t.input = rest

/-- R161: TP_RX of an acceptable frame is its frame kind's instruction, and that one answers a next state; a frame of no kind is
INVALID_FRAME_TYPE (R164, R187). -/
def Obligations.AcceptedFrameRunsItsKind : Prop :=
  ∀ (f : RawFrame) (s : State), acceptable f s →
    (∀ i, decodeFrame (f.id.extractLsb' 0 8) f.data = some i →
      exec (.tpRx f) s = exec i s ∧ ∃ t, exec (.tpRx f) s = .next t) ∧
    (decodeFrame (f.id.extractLsb' 0 8) f.data = none →
      exec (.tpRx f) s = .next { s with outs := s.outs ++ [.status .invalidFrameType (.frameType (f.data[1].extractLsb' 4 4))] })

/-! ## Reset and invariants -/

/-- R43: the state after reset, for each pair of parameters. -/
def Obligations.ResetValues : Prop :=
  ∀ nSlots nSchemas : Nat,
    let s := State.resetWith nSlots nSchemas
    enabled s = false ∧ perPeer s = true ∧ strict s = false ∧ localAddr s = 0 ∧ pad s = 0 ∧
    baseId s = 0x600 ∧ fcBs s = 0 ∧ fcStmin s = 1 ∧ registersLegal s ∧
    s.sch.length = nSchemas ∧ (∀ e ∈ s.sch, ∀ w, w < 18 → wordAt e w = 0) ∧
    s.slots.length = nSlots ∧ (∀ v ∈ s.slots, v = .idle) ∧ s.tx = .none ∧ s.pos = 0

/-- The invariant holds after reset, for each legal pair of parameters. -/
def Obligations.ResetEstablishesLegality : Prop :=
  ∀ nSlots nSchemas : Nat, 1 ≤ nSlots → nSlots ≤ 256 → 1 ≤ nSchemas → nSchemas ≤ 256 →
    Inv (State.resetWith nSlots nSchemas)

/-- R291: with no VALID schema every codec command raises BAD_SCHEMA (CODEC_CLASSIFY of at least one schema: log 7), and with EN clear the
framer's state-changing commands raise NOT_CONFIGURED. -/
def Obligations.UnsetBlockRefuses : Prop :=
  (∀ s : State, (∀ e ∈ s.sch, entryIsValid e = false) →
    (∀ k f, exec (.codecDecode k f) s = .next { s with outs := s.outs ++ [.status .badSchema (.index k.toNat)] }) ∧
    (∀ k who m v, exec (.codecEncode k who m v) s = .next { s with outs := s.outs ++ [.status .badSchema (.index k.toNat)] }) ∧
    (∀ k n f, n ≠ 0 → exec (.codecClassify k n f) s = .next { s with outs := s.outs ++ [.status .badSchema (.index k.toNat)] })) ∧
  (∀ s : State, enabled s = false →
    (∀ f, exec (.tpRx f) s = .next { s with outs := s.outs ++ [.status .notConfigured .empty] }) ∧
    (∀ r p, exec (.tpSend r p) s = .next { s with outs := s.outs ++ [.status .notConfigured .empty] }) ∧
    (∀ who all, exec (.tpDiscard who all) s = .next { s with outs := s.outs ++ [.status .notConfigured .empty] }))

/-- R29, R31, R32, R37, R39, R6: every instruction, in every legal state, leaves a legal state. -/
def Obligations.InstructionsKeepLegality : Prop :=
  ∀ (i : Instr) (s t : State), Inv s → exec i s = .next t → Inv t

/-- The same of a step, which may also be a refused header or the reset event. -/
def Obligations.StepsKeepLegality : Prop :=
  ∀ s t : State, Inv s → step s = .next t → Inv t

/-- R6: N_SLOTS and N_SCHEMAS never change, whatever the step. -/
def Obligations.ParametersNeverChange : Prop :=
  ∀ s t : State, step s = .next t → t.slots.length = s.slots.length ∧ t.sch.length = s.sch.length

/-! ## The whole machine -/

/-- R11, R260, R261: every instruction, in every state, answers a next state, adds its events to the output with exactly one Status, last,
whose info record has the shape R261 gives its code. -/
def Obligations.ExactlyOneStatusComesLast : Prop :=
  ∀ (i : Instr) (s : State), ∃ (t : State) (es : List Event) (c : Code) (info : Info),
    exec i s = .next t ∧ t.outs = s.outs ++ es ++ [.status c info] ∧ (∀ e ∈ es, isStatus e = false) ∧ infoFits c info = true

/-- R264: a command that ends in an error has emitted nothing else, and has changed nothing but one slot, now IDLE: for 0x21 slot 0 of a
block in SINGLE mode, which received from another sender (R180); for 0x20 the slot the frame was to continue, whose next SN the frame did not
carry: slot 0 in SINGLE mode, the slot of the sender in PER_PEER mode (R181). Every other error changes nothing (R262). -/
def Obligations.ErrorsArePrecise : Prop :=
  ∀ (i : Instr) (s t : State) (es : List Event) (c : Code) (info : Info),
    exec i s = .next t → t.outs = s.outs ++ es ++ [.status c info] → isError c = true →
    es = [] ∧ (resetsSlot c = false → t = { s with outs := t.outs }) ∧
    (c = .protocolViolationSender → ∃ (who : Byte) (r : Reassembly),
      perPeer s = false ∧ s.slots[0]? = some (Slot.receiving r) ∧ r.sender ≠ who ∧ info = .senders r.sender who ∧
      t = { s with slots := s.slots.set 0 .idle, outs := t.outs }) ∧
    (c = .protocolViolationSequence → ∃ (who : Byte) (sn : Nibble) (k : Nat) (r : Reassembly),
      cfSlot who s k r ∧ (perPeer s = true → slotOfSender s who = some k) ∧ sn ≠ r.nsn ∧ info = .sequence who r.nsn sn ∧
      t = { s with slots := s.slots.set k .idle, outs := t.outs })

/-- R68: the reading commands change nothing but the output, and issued twice in a row emit the same events. -/
def Obligations.ReadingCommandsChangeNothing : Prop :=
  ∀ (i : Instr) (s : State), readsOnly i = true →
    ∃ es, exec i s = .next { s with outs := s.outs ++ es } ∧
      exec i { s with outs := s.outs ++ es } = .next { s with outs := s.outs ++ es ++ es }

/-- R120, R137: a codec command changes nothing but the output, and emits the same events in two states with the same schema table. -/
def Obligations.CodecSeesOnlySchemas : Prop :=
  ∀ (i : Instr) (s u : State), isCodec i = true → s.sch = u.sch →
    ∃ es, exec i s = .next { s with outs := s.outs ++ es } ∧ exec i u = .next { u with outs := u.outs ++ es }

/-- R74, R160: the framer neither reads nor writes the schema table. -/
def Obligations.FramerIgnoresSchemas : Prop :=
  ∀ (i : Instr) (s : State) (table : List SchemaEntry), isFramer i = true →
    ∃ t, exec i s = .next t ∧ t.sch = s.sch ∧ exec i { s with sch := table } = .next { t with sch := table }

/-- R68, R246: which instruction can write which state. -/
def Obligations.OnlyNamedCommandsWrite : Prop :=
  ∀ (i : Instr) (s t : State), exec i s = .next t →
    (t.cfg0 ≠ s.cfg0 → ∃ v, i = .cfgWrite 0 v) ∧
    (t.cfg1 ≠ s.cfg1 → ∃ v, i = .cfgWrite 1 v) ∧
    (t.cfg2 ≠ s.cfg2 → ∃ v, i = .cfgWrite 2 v) ∧
    (t.sch ≠ s.sch → ∃ k w v, i = .schWrite k w v) ∧
    (t.slots ≠ s.slots → (∃ v, i = .cfgWrite 0 v) ∨ (∃ v, i = .cfgWrite 1 v) ∨ (∃ f, i = .tpRx f) ∨
      (∃ who all, i = .tpDiscard who all) ∨ (∃ who len b, i = .isotpFf who len b) ∨ (∃ who sn b, i = .isotpCf who sn b)) ∧
    (t.tx ≠ s.tx → (∃ v, i = .cfgWrite 0 v) ∨ (∃ v, i = .cfgWrite 1 v) ∨ (∃ f, i = .tpRx f) ∨ (∃ r p, i = .tpSend r p) ∨
      (∃ who fs bs st p, i = .isotpFc who fs bs st p)) ∧
    t.pos = s.pos ∧ t.input = s.input

/-- R213: every frame the framer sends has identifier `BASE_ID | LOCAL_ADDR`, is standard and has 8 bytes. -/
def Obligations.SentFrameShape : Prop :=
  ∀ (i : Instr) (s t : State) (f : RawFrame), exec i s = .next t → Event.txFrame f ∈ newEvents s t →
    f.ext = false ∧ f.dlc = 8 ∧ f.id = (baseId s ||| (localAddr s).setWidth 11).setWidth 29

/-- R11, R186: every payload delivered from a legal state is complete: 1 to 4095 bytes, from the only instructions that deliver. -/
def Obligations.DeliveredPayloadLengths : Prop :=
  ∀ (i : Instr) (s t : State) (who : Byte) (p : List Byte), Inv s → exec i s = .next t →
    Event.rxPayload who p ∈ newEvents s t →
    1 ≤ p.length ∧ p.length ≤ 4095 ∧
    ((∃ f, i = .tpRx f) ∨ (∃ dl b, i = .isotpSf who dl b) ∨ (∃ len b, i = .isotpFf who len b) ∨ (∃ sn b, i = .isotpCf who sn b))

/-! ## Registers and schema words (43_config.md) -/

/-- R24, R25, R26, R31, R32, R33: where the fields of the configuration registers and of the schema words lie. -/
def Obligations.FieldLayout : Prop :=
  (∀ s : State,
    enabled s = s.cfg0.getLsbD 0 ∧ perPeer s = s.cfg0.getLsbD 1 ∧ strict s = s.cfg0.getLsbD 2 ∧
    (localAddr s).toNat = s.cfg0.toNat / 2 ^ 8 % 2 ^ 8 ∧ (pad s).toNat = s.cfg0.toNat / 2 ^ 16 % 2 ^ 8 ∧
    (baseId s).toNat = s.cfg1.toNat % 2 ^ 11 ∧
    (fcBs s).toNat = s.cfg2.toNat % 2 ^ 8 ∧ (fcStmin s).toNat = s.cfg2.toNat / 2 ^ 8 % 2 ^ 8) ∧
  (∀ e : SchemaEntry,
    entryIsValid e = (wordAt e 0).getLsbD 0 ∧ entryExt e = (wordAt e 0).getLsbD 1 ∧ entryAddressed e = (wordAt e 0).getLsbD 2 ∧
    entryFields e = (wordAt e 0).toNat / 2 ^ 3 % 2 ^ 4 ∧ (entryId e).toNat = (wordAt e 1).toNat % 2 ^ 29 ∧
    ∀ i, i < 8 →
      fieldWidth e i = (wordAt e (2 + i)).toNat % 2 ^ 4 ∧ fieldLittle e i = (wordAt e (2 + i)).getLsbD 4 ∧
      fieldSigned e i = (wordAt e (2 + i)).getLsbD 5 ∧ fieldConst e i = (wordAt e (2 + i)).getLsbD 6 ∧
      fieldDefault e i = wordAt e (10 + i))

/-- R241, R243: CFG_WRITE of each register number. -/
def Obligations.RegisterWriteEffect : Prop :=
  ∀ (s : State) (v : Word32),
    exec (.cfgWrite 0 v) s = .next { s with
      cfg0 := v &&& 0x00FFFF07, slots := List.replicate s.slots.length .idle, tx := .none, outs := s.outs ++ [.status .ok .empty] } ∧
    exec (.cfgWrite 1 v) s = .next { s with
      cfg1 := v &&& 0x000007FF, slots := List.replicate s.slots.length .idle, tx := .none, outs := s.outs ++ [.status .ok .empty] } ∧
    exec (.cfgWrite 2 v) s = .next { s with cfg2 := v &&& 0x0000FFFF, outs := s.outs ++ [.status .ok .empty] } ∧
    (∀ n : Byte, 3 ≤ n.toNat → exec (.cfgWrite n v) s = .next { s with outs := s.outs ++ [.status .badRegister (.reg n)] })

/-- R242: CFG_READ of each register number; in a legal state the reserved bits it reads are 0. -/
def Obligations.RegisterReadValue : Prop :=
  ∀ s : State,
    exec (.cfgRead 0) s = .next { s with outs := s.outs ++ [.result (.reg s.cfg0), .status .ok .empty] } ∧
    exec (.cfgRead 1) s = .next { s with outs := s.outs ++ [.result (.reg s.cfg1), .status .ok .empty] } ∧
    exec (.cfgRead 2) s = .next { s with outs := s.outs ++ [.result (.reg s.cfg2), .status .ok .empty] } ∧
    exec (.cfgRead 3) s = .next { s with outs := s.outs ++
      [.result (.reg ((BitVec.ofNat 32 (rxBusy s) <<< 8) ||| (if txPending s then 1 else 0))), .status .ok .empty] } ∧
    exec (.cfgRead 4) s = .next { s with outs := s.outs ++
      [.result (.reg ((BitVec.ofNat 32 s.sch.length <<< 16) ||| BitVec.ofNat 32 s.slots.length)), .status .ok .empty] } ∧
    (∀ n : Byte, 5 ≤ n.toNat → exec (.cfgRead n) s = .next { s with outs := s.outs ++ [.status .badRegister (.reg n)] }) ∧
    (registersLegal s → s.cfg0 &&& 0xFF0000F8 = 0 ∧ s.cfg1 &&& 0xFFFFF800 = 0 ∧ s.cfg2 &&& 0xFFFF0000 = 0)

/-- R27, R28: the fields of STAT and PARAMS as CFG_READ gives them, with the parameters in range. -/
def Obligations.StatusRegisterLayout : Prop :=
  ∀ s : State, parametersLegal s → ∃ stat params : Word32,
    exec (.cfgRead 3) s = .next { s with outs := s.outs ++ [.result (.reg stat), .status .ok .empty] } ∧
    (stat.getLsbD 0 = true ↔ ∃ r rem sn, s.tx = .pending r rem sn) ∧ stat.extractLsb' 1 7 = 0 ∧
    (stat.extractLsb' 8 9).toNat = s.slots.countP (fun v => v != .idle) ∧ stat.extractLsb' 17 15 = 0 ∧
    exec (.cfgRead 4) s = .next { s with outs := s.outs ++ [.result (.reg params), .status .ok .empty] } ∧
    (params.extractLsb' 0 9).toNat = s.slots.length ∧ params.extractLsb' 9 7 = 0 ∧
    (params.extractLsb' 16 9).toNat = s.sch.length ∧ params.extractLsb' 25 7 = 0

/-- R29: reserved bits of CFG0, CFG1 and CFG2 ignore what is written and read 0, the other bits read back; STAT and PARAMS are not
written. -/
def Obligations.RegisterReadsBackWithoutReservedBits : Prop :=
  ∀ (s : State) (v : Word32),
    (∃ t, runAll [.cfgWrite 0 v, .cfgRead 0] s = some t ∧
      t.outs = s.outs ++ [.status .ok .empty, .result (.reg (v &&& 0x00FFFF07)), .status .ok .empty]) ∧
    (∃ t, runAll [.cfgWrite 1 v, .cfgRead 1] s = some t ∧
      t.outs = s.outs ++ [.status .ok .empty, .result (.reg (v &&& 0x000007FF)), .status .ok .empty]) ∧
    (∃ t, runAll [.cfgWrite 2 v, .cfgRead 2] s = some t ∧
      t.outs = s.outs ++ [.status .ok .empty, .result (.reg (v &&& 0x0000FFFF)), .status .ok .empty]) ∧
    exec (.cfgWrite 3 v) s = .next { s with outs := s.outs ++ [.status .badRegister (.reg 3)] } ∧
    exec (.cfgWrite 4 v) s = .next { s with outs := s.outs ++ [.status .badRegister (.reg 4)] }

/-- R244: SCH_WRITE writes one word, under its mask; every other word and entry is unchanged. -/
def Obligations.SchemaWriteEffect : Prop :=
  ∀ (s : State) (k w : Byte) (v : Word64),
    (s.sch.length ≤ k.toNat → exec (.schWrite k w v) s = .next { s with outs := s.outs ++ [.status .badSchema (.index k.toNat)] }) ∧
    (k.toNat < s.sch.length → 17 < w.toNat →
      exec (.schWrite k w v) s = .next { s with outs := s.outs ++ [.status .badRegister (.word w)] }) ∧
    (∀ e, s.sch[k.toNat]? = some e → w.toNat ≤ 17 → ∃ e',
      exec (.schWrite k w v) s = .next { s with sch := s.sch.set k.toNat e', outs := s.outs ++ [.status .ok .empty] } ∧
      wordAt e' w.toNat = v &&& (if w.toNat = 0 then 0x7F else if w.toNat = 1 then 0x1FFFFFFF
        else if w.toNat ≤ 9 then 0x7F else 0xFFFFFFFFFFFFFFFF) ∧
      ∀ j, j < 18 → j ≠ w.toNat → wordAt e' j = wordAt e j)

/-- R245: SCH_READ gives the word; in a legal state its reserved bits are 0. -/
def Obligations.SchemaReadValue : Prop :=
  ∀ (s : State) (k w : Byte),
    (s.sch.length ≤ k.toNat → exec (.schRead k w) s = .next { s with outs := s.outs ++ [.status .badSchema (.index k.toNat)] }) ∧
    (k.toNat < s.sch.length → 17 < w.toNat →
      exec (.schRead k w) s = .next { s with outs := s.outs ++ [.status .badRegister (.word w)] }) ∧
    (∀ e, s.sch[k.toNat]? = some e → w.toNat ≤ 17 →
      exec (.schRead k w) s = .next { s with outs := s.outs ++ [.result (.word (wordAt e w.toNat)), .status .ok .empty] } ∧
      (schemasLegal s → wordAt e w.toNat &&& (if w.toNat = 0 then 0xFFFFFFFFFFFFFF80 else if w.toNat = 1 then 0xFFFFFFFFE0000000
        else if w.toNat ≤ 9 then 0xFFFFFFFFFFFFFF80 else 0) = 0))

/-- R244, R245: what SCH_WRITE wrote, SCH_READ gives, less the reserved bits; any other word reads as before. -/
def Obligations.SchemaWriteThenRead : Prop :=
  ∀ (s : State) (k w : Byte) (v : Word64), k.toNat < s.sch.length → w.toNat ≤ 17 →
    ∃ t, exec (.schWrite k w v) s = .next t ∧
      exec (.schRead k w) t = .next { t with outs := t.outs ++ [.result (.word (v &&& schMask w.toNat)), .status .ok .empty] } ∧
      ∀ (k' w' : Byte), (k' ≠ k ∨ w' ≠ w) →
        ∃ es, exec (.schRead k' w') s = .next { s with outs := s.outs ++ es } ∧
          exec (.schRead k' w') t = .next { t with outs := t.outs ++ es }

/-- R92, R292: SCH_LOAD leaves the entry valid-flagged with the given header, identifier and fields, touches nothing else, and at no
point between its first and its last command is the entry VALID. -/
def Obligations.SchemaLoadWritesEntry : Prop :=
  ∀ (s : State) (k : Byte) (ext addressed : Bool) (id : CanId) (fields : List FieldSpec),
    k.toNat < s.sch.length → fields.length ≤ 8 →
    (∃ e es, runAll (schLoad k ext addressed id fields) s = some { s with sch := s.sch.set k.toNat e, outs := s.outs ++ es } ∧
      entryIsValid e = true ∧ entryExt e = ext ∧ entryAddressed e = addressed ∧ entryFields e = fields.length ∧ entryId e = id ∧
      ∀ i f, fields[i]? = some f →
        fieldWidth e i = f.width.toNat ∧ fieldLittle e i = f.little ∧ fieldSigned e i = f.signed ∧ fieldConst e i = f.const ∧
        fieldDefault e i = f.value) ∧
    (∀ n, 1 ≤ n → n < (schLoad k ext addressed id fields).length →
      ∃ t e, runAll ((schLoad k ext addressed id fields).take n) s = some t ∧ t.sch[k.toNat]? = some e ∧ entryIsValid e = false)

/-- R92: TP_CONFIG sets EN and the four fields it names. -/
def Obligations.ConfigPseudoSetsFields : Prop :=
  ∀ (s : State) (addr padByte : Byte) (mode fcpol : Bool), ∃ t, runAll (tpConfig addr mode fcpol padByte) s = some t ∧
    enabled t = true ∧ perPeer t = mode ∧ strict t = fcpol ∧ localAddr t = addr ∧ pad t = padByte ∧
    t.slots = List.replicate s.slots.length .idle ∧ t.tx = .none ∧ t.cfg1 = s.cfg1 ∧ t.cfg2 = s.cfg2 ∧ t.sch = s.sch

/-! ## Codec (40_codec.md) -/

/-- R121, R126: CODEC_DECODE, check by check in its order. -/
def Obligations.CodecDecodeResult : Prop :=
  ∀ (s : State) (k : Byte) (f : RawFrame),
    ((∀ e, ¬ schemaValid s k.toNat e) →
      exec (.codecDecode k f) s = .next { s with outs := s.outs ++ [.status .badSchema (.index k.toNat)] }) ∧
    (∀ e, schemaValid s k.toNat e →
      (¬ frameLegal f → exec (.codecDecode k f) s = .next { s with outs := s.outs ++ [.status .malformedFrame .empty] }) ∧
      (frameLegal f → ¬ addressFits e f →
        exec (.codecDecode k f) s = .next { s with
          outs := s.outs ++ [.status .addressMismatch (.address (entryId e) (entryExt e) f.id f.ext)] }) ∧
      (frameLegal f → addressFits e f → f.dlc.toNat ≠ entryLen e →
        exec (.codecDecode k f) s = .next { s with
          outs := s.outs ++ [.status .lengthMismatch (.lengths (entryLen e) f.dlc.toNat)] }) ∧
      (∀ i, frameLegal f → addressFits e f → f.dlc.toNat = entryLen e → i < entryFields e → filterFails e f.data i →
        (∀ j, j < i → ¬ filterFails e f.data j) →
        exec (.codecDecode k f) s = .next { s with outs := s.outs ++
          [.status .fieldConstraintViolation
            (.field i (fieldRaw e i f.data) (lowBytes (fieldWidth e i) (fieldDefault e i)))] }) ∧
      (frameLegal f → frameMatches e f →
        exec (.codecDecode k f) s = .next { s with outs := s.outs ++
          [.result (.fields k.toNat (entryFields e)
              ((List.range (entryFields e)).map (fun i => fieldValue e i (fieldRaw e i f.data)))
              (if entryAddressed e then f.id.extractLsb' 0 8 else 0)),
            .status .ok .empty] }))

/-- R62, R123: field 0 starts at byte 0 and each next one where the last ends; a field that lies in the frame reads as the base-256
number of its bytes, in its byte order. -/
def Obligations.FieldBytesInOrder : Prop :=
  (∀ e : SchemaEntry, fieldOffset e 0 = 0 ∧ ∀ i, fieldOffset e (i + 1) = fieldOffset e i + fieldWidth e i) ∧
  ∀ (e : SchemaEntry) (i : Nat) (data : Vector Byte 8), fieldWidth e i ≤ 8 → fieldOffset e i + fieldWidth e i ≤ 8 →
    (fieldLittle e i = false → (fieldRaw e i data).toNat =
      ((List.range (fieldWidth e i)).map
        (fun j => (data.toList.getD (fieldOffset e i + j) 0).toNat * 256 ^ (fieldWidth e i - 1 - j))).sum) ∧
    (fieldLittle e i = true → (fieldRaw e i data).toNat =
      ((List.range (fieldWidth e i)).map
        (fun j => (data.toList.getD (fieldOffset e i + j) 0).toNat * 256 ^ j)).sum)

/-- R124: the 64-bit value of a raw field of `8*w` bits. -/
def Obligations.FieldValueSignExtends : Prop :=
  ∀ (e : SchemaEntry) (i : Nat) (raw : Word64), 1 ≤ fieldWidth e i → fieldWidth e i ≤ 8 → raw.toNat < 2 ^ (8 * fieldWidth e i) →
    (fieldSigned e i = false → fieldValue e i raw = raw) ∧
    (fieldSigned e i = true → (fieldValue e i raw).toInt =
      if raw.toNat < 2 ^ (8 * fieldWidth e i - 1) then (raw.toNat : Int) else (raw.toNat : Int) - 2 ^ (8 * fieldWidth e i))

/-- R130, R132, R133: CODEC_ENCODE's frame, byte by byte. -/
def Obligations.CodecEncodeResult : Prop :=
  ∀ (s : State) (k who m : Byte) (v : Vector Word64 8),
    ((∀ e, ¬ schemaValid s k.toNat e) →
      exec (.codecEncode k who m v) s = .next { s with outs := s.outs ++ [.status .badSchema (.index k.toNat)] }) ∧
    (∀ e, schemaValid s k.toNat e → ∃ f : RawFrame,
      exec (.codecEncode k who m v) s = .next { s with outs := s.outs ++ [.result (.frame f), .status .ok .empty] } ∧
      f.id = (if entryAddressed e then entryId e ||| who.setWidth 29 else entryId e) ∧
      f.ext = entryExt e ∧ f.dlc.toNat = entryLen e ∧
      (∀ i j, i < entryFields e → j < fieldWidth e i →
        f.data.toList.getD (fieldOffset e i + j) 0 =
          ((if fieldConst e i = true ∨ m.getLsbD i = false then fieldDefault e i else v.toList.getD i 0) >>>
            (8 * (if fieldLittle e i then j else fieldWidth e i - 1 - j))).setWidth 8) ∧
      (∀ p, entryLen e ≤ p → p < 8 → f.data.toList.getD p 0 = 0))

/-- R131, R12: every frame CODEC_ENCODE emits is well-formed. -/
def Obligations.EncodedFrameIsWellFormed : Prop :=
  ∀ (s t : State) (k who m : Byte) (v : Vector Word64 8) (f : RawFrame),
    exec (.codecEncode k who m v) s = .next t → Event.result (.frame f) ∈ newEvents s t → frameLegal f

/-- R133: the frame CODEC_ENCODE emits satisfies every filter of its schema, whatever M and V say. -/
def Obligations.EncodedFrameMeetsFilters : Prop :=
  ∀ (s t : State) (k who m : Byte) (v : Vector Word64 8) (f : RawFrame) (e : SchemaEntry), schemaValid s k.toNat e →
    exec (.codecEncode k who m v) s = .next t → Event.result (.frame f) ∈ newEvents s t →
    ∀ i, i < entryFields e → ¬ filterFails e f.data i

/-- R136: decoding what CODEC_ENCODE emits gives back every variable field whose value fits it, and the sender. -/
def Obligations.EncodeDecodeRoundTrip : Prop :=
  ∀ (s : State) (k who m : Byte) (v : Vector Word64 8) (e : SchemaEntry), schemaValid s k.toNat e →
    let x : Nat → Word64 := fun i => if m.getLsbD i then v.toList.getD i 0 else fieldDefault e i
    (∀ i, i < entryFields e → fieldConst e i = false →
      (fieldSigned e i = false → (x i).toNat < 2 ^ (8 * fieldWidth e i)) ∧
      (fieldSigned e i = true → x i = ((x i).setWidth (8 * fieldWidth e i)).signExtend 64)) →
    ∃ (f : RawFrame) (vs : List Word64),
      exec (.codecEncode k who m v) s = .next { s with outs := s.outs ++ [.result (.frame f), .status .ok .empty] } ∧
      exec (.codecDecode k f) s = .next { s with outs := s.outs ++
        [.result (.fields k.toNat (entryFields e) vs
            (if entryAddressed e then (entryId e).extractLsb' 0 8 ||| who else 0)),
          .status .ok .empty] } ∧
      vs.length = entryFields e ∧
      ∀ i, i < entryFields e → fieldConst e i = false → vs[i]? = some (x i)

/-- R135: CODEC_CLASSIFY reports the lowest invalid schema, else a malformed frame, else the first match, else NO_MATCH. -/
def Obligations.CodecClassifyResult : Prop :=
  ∀ (s : State) (k n : Byte) (f : RawFrame),
    (∀ j, j < n.toNat → (∀ e, ¬ schemaValid s (k.toNat + j) e) → (∀ j', j' < j → ∃ e, schemaValid s (k.toNat + j') e) →
      exec (.codecClassify k n f) s = .next { s with outs := s.outs ++ [.status .badSchema (.index (k.toNat + j))] }) ∧
    ((∀ j, j < n.toNat → ∃ e, schemaValid s (k.toNat + j) e) →
      (¬ frameLegal f → exec (.codecClassify k n f) s = .next { s with outs := s.outs ++ [.status .malformedFrame .empty] }) ∧
      (frameLegal f →
        (∀ j e, j < n.toNat → schemaValid s (k.toNat + j) e → frameMatches e f →
          (∀ j' e', j' < j → schemaValid s (k.toNat + j') e' → ¬ frameMatches e' f) →
          exec (.codecClassify k n f) s = .next { s with outs := s.outs ++
            [.result (.fields (k.toNat + j) (entryFields e)
                ((List.range (entryFields e)).map (fun i => fieldValue e i (fieldRaw e i f.data)))
                (if entryAddressed e then f.id.extractLsb' 0 8 else 0)),
              .status .ok .empty] }) ∧
        ((∀ j e, j < n.toNat → schemaValid s (k.toNat + j) e → ¬ frameMatches e f) →
          exec (.codecClassify k n f) s = .next { s with outs := s.outs ++ [.status .noMatch (.count n.toNat)] })))

/-! ## Framer, receiving (41_framer_rx.md) -/

/-- R162, R265: TP_RX turns a frame away at the first failing check, in this order, changing nothing (R165). -/
def Obligations.AcceptChecksInOrder : Prop :=
  ∀ (s : State) (f : RawFrame),
    (enabled s = false → exec (.tpRx f) s = .next { s with outs := s.outs ++ [.status .notConfigured .empty] }) ∧
    (enabled s = true → ¬ frameLegal f →
      exec (.tpRx f) s = .next { s with outs := s.outs ++ [.status .malformedFrame .empty] }) ∧
    (enabled s = true → frameLegal f → (f.ext = true ∨ f.id.extractLsb' 8 3 ≠ (baseId s).extractLsb' 8 3) →
      exec (.tpRx f) s = .next { s with outs := s.outs ++ [.status .notAddressed (.reasonId f.id f.ext)] }) ∧
    (enabled s = true → frameLegal f → f.ext = false → f.id.extractLsb' 8 3 = (baseId s).extractLsb' 8 3 → f.dlc ≠ 8 →
      exec (.tpRx f) s = .next { s with outs := s.outs ++ [.status .lengthMismatch (.lengths 8 f.dlc.toNat)] }) ∧
    (enabled s = true → frameLegal f → f.ext = false → f.id.extractLsb' 8 3 = (baseId s).extractLsb' 8 3 → f.dlc = 8 →
      f.data[0] ≠ localAddr s →
      exec (.tpRx f) s = .next { s with outs := s.outs ++ [.status .notAddressed (.reasonRecipient f.data[0])] })

/-- R166, R167, R168: a single frame delivers its first `dl` bytes and changes no slot and no segment; other lengths are refused. TP_RX of
an acceptable frame does the same. -/
def Obligations.SingleFrameDelivers : Prop :=
  (∀ (s : State) (who : Byte) (dl : Nibble) (b : Vector Byte 6),
    (1 ≤ dl.toNat → dl.toNat ≤ 6 → exec (.isotpSf who dl b) s =
      .next { s with outs := s.outs ++ [.rxPayload who (b.toList.take dl.toNat), .status .ok .empty] }) ∧
    (dl.toNat = 0 ∨ 7 ≤ dl.toNat → exec (.isotpSf who dl b) s =
      .next { s with outs := s.outs ++ [.status .invalidSfLength (.length dl.toNat)] })) ∧
  (∀ (s : State) (f : RawFrame) (dl : Nat), acceptable f s → f.data[1].toNat = dl → 1 ≤ dl → dl ≤ 6 →
    exec (.tpRx f) s = .next { s with outs := s.outs ++
      [.rxPayload (f.id.extractLsb' 0 8) ((f.data.toList.drop 2).take dl), .status .ok .empty] })

/-- R169, R170, R172, R173, R175, R177: a first frame on the slot R170 gives it: delivered at once when `L <= 5`, else a reassembly with
next SN 1 and one FC back to the sender; the ending says whether it superseded one. -/
def Obligations.FirstFrameTakesItsSlot : Prop :=
  ∀ (s : State) (who : Byte) (len : Length12) (b : Vector Byte 5) (k : Nat), slotsLegal s → ffSlot who s k →
    (1 ≤ len.toNat → len.toNat ≤ 5 → exec (.isotpFf who len b) s = .next { s with
      slots := s.slots.set k .idle
      outs := s.outs ++ [.rxPayload who (b.toList.take len.toNat), ffEnding s k] }) ∧
    (6 ≤ len.toNat → exec (.isotpFf who len b) s = .next { s with
      slots := s.slots.set k (.receiving { sender := who, dl := len, buf := b.toList, out := len - 5, nsn := 1 })
      outs := s.outs ++
        [.txFrame (sentFrame s #v[who, 0x30, fcBs s, fcStmin s, pad s, pad s, pad s, pad s]), ffEnding s k] })

/-- R171, R174: a first frame of length 0, or in PER_PEER mode from a new sender with every slot busy, changes nothing. -/
def Obligations.FirstFrameTurnedAway : Prop :=
  ∀ (s : State) (who : Byte) (len : Length12) (b : Vector Byte 5),
    (len = 0 → exec (.isotpFf who len b) s = .next { s with outs := s.outs ++ [.status .invalidFfLength (.length 0)] }) ∧
    (len ≠ 0 → perPeer s = true → noneReceivingFrom who s → Slot.idle ∉ s.slots →
      exec (.isotpFf who len b) s = .next { s with outs := s.outs ++ [.status .noSlot (.sender who)] })

/-- R178, R182-R185: a consecutive frame with the expected SN appends `min(out, 6)` bytes; the last one delivers the whole payload, of
exactly `dl` bytes, and frees the slot. -/
def Obligations.ConsecutiveFrameAppends : Prop :=
  ∀ (s : State) (who : Byte) (b : Vector Byte 6) (k : Nat) (r : Reassembly), slotsLegal s → cfSlot who s k r →
    (7 ≤ r.out.toNat → exec (.isotpCf who r.nsn b) s = .next { s with
      slots := s.slots.set k (.receiving
        { sender := who, dl := r.dl, buf := r.buf ++ b.toList, out := r.out - 6, nsn := r.nsn + 1 })
      outs := s.outs ++ [.status .ok .empty] }) ∧
    (r.out.toNat ≤ 6 → exec (.isotpCf who r.nsn b) s = .next { s with
        slots := s.slots.set k .idle
        outs := s.outs ++ [.rxPayload who (r.buf ++ b.toList.take r.out.toNat), .status .ok .empty] } ∧
      (r.buf ++ b.toList.take r.out.toNat).length = r.dl.toNat)

/-- R179, R180, R181: a consecutive frame with the wrong SN, or in SINGLE mode from another sender, empties the slot and delivers nothing;
one that no reassembly waits for changes nothing. -/
def Obligations.ConsecutiveFrameViolations : Prop :=
  ∀ (s : State) (who : Byte) (sn : Nibble) (b : Vector Byte 6), slotsLegal s →
    (∀ k r, cfSlot who s k r → sn ≠ r.nsn → exec (.isotpCf who sn b) s = .next { s with
      slots := s.slots.set k .idle
      outs := s.outs ++ [.status .protocolViolationSequence (.sequence who r.nsn sn)] }) ∧
    (∀ r : Reassembly, perPeer s = false → s.slots[0]? = some (Slot.receiving r) → r.sender ≠ who →
      exec (.isotpCf who sn b) s = .next { s with
        slots := s.slots.set 0 .idle
        outs := s.outs ++ [.status .protocolViolationSender (.senders r.sender who)] }) ∧
    (perPeer s = false → s.slots[0]? = some Slot.idle →
      exec (.isotpCf who sn b) s = .next { s with outs := s.outs ++ [.status .unexpectedCf (.sender who)] }) ∧
    (perPeer s = true → noneReceivingFrom who s →
      exec (.isotpCf who sn b) s = .next { s with outs := s.outs ++ [.status .unexpectedCf (.sender who)] })

/-- R191: after a sequence error the next first frame from the same sender starts a fresh reassembly in an IDLE slot, with OK and not OK_SUPERSEDED. -/
def Obligations.SequenceErrorLeavesFreshStart : Prop :=
  ∀ (s : State) (who : Byte) (sn : Nibble) (b : Vector Byte 6) (c : Vector Byte 5) (len : Length12) (k : Nat) (r : Reassembly),
    slotsLegal s → cfSlot who s k r → sn ≠ r.nsn → 6 ≤ len.toNat →
    ∃ (t : State) (j : Nat), (s.slots.set k .idle)[j]? = some .idle ∧ runAll [.isotpCf who sn b, .isotpFf who len c] s = some t ∧
      t.slots[j]? = some (Slot.receiving { sender := who, dl := len, buf := c.toList, out := len - 5, nsn := 1 }) ∧
      t.outs = s.outs ++ [.status .protocolViolationSequence (.sequence who r.nsn sn),
        .txFrame (sentFrame s #v[who, 0x30, fcBs s, fcStmin s, pad s, pad s, pad s, pad s]), .status .ok .empty]

/-- R188: TP_CLASSIFY, whatever the state: no EN, identifier or recipient check. -/
def Obligations.ClassifierReportsPci : Prop :=
  ∀ (s : State) (f : RawFrame),
    let t := f.data[1].extractLsb' 4 4
    let x := f.data[1].extractLsb' 0 4
    let who : Byte := f.id.extractLsb' 0 8
    (¬ frameLegal f → exec (.tpClassify f) s = .next { s with outs := s.outs ++ [.status .malformedFrame .empty] }) ∧
    (frameLegal f → f.dlc ≠ 8 →
      exec (.tpClassify f) s = .next { s with outs := s.outs ++ [.status .lengthMismatch (.lengths 8 f.dlc.toNat)] }) ∧
    (frameLegal f → f.dlc = 8 →
      (t = 0 → 1 ≤ x.toNat → x.toNat ≤ 6 → exec (.tpClassify f) s = .next { s with outs := s.outs ++
        [.result (.pci .sf f.data[0] who f.ext (x.setWidth 12) 0 0 ((f.data.toList.drop 2).take x.toNat)), .status .ok .empty] }) ∧
      (t = 0 → x.toNat = 0 ∨ 7 ≤ x.toNat → exec (.tpClassify f) s = .next { s with outs := s.outs ++
        [.status .invalidSfLength (.length x.toNat)] }) ∧
      (t = 1 → x ++ f.data[2] ≠ 0#12 → exec (.tpClassify f) s = .next { s with outs := s.outs ++
        [.result (.pci .ff f.data[0] who f.ext (x ++ f.data[2]) 0 0 ((f.data.toList.drop 3).take (min (x ++ f.data[2]).toNat 5))),
          .status .ok .empty] }) ∧
      (t = 1 → x ++ f.data[2] = 0#12 → exec (.tpClassify f) s = .next { s with outs := s.outs ++
        [.status .invalidFfLength (.length 0)] }) ∧
      (t = 2 → exec (.tpClassify f) s = .next { s with outs := s.outs ++
        [.result (.pci .cf f.data[0] who f.ext (x.setWidth 12) 0 0 (f.data.toList.drop 2)), .status .ok .empty] }) ∧
      (t = 3 → exec (.tpClassify f) s = .next { s with outs := s.outs ++
        [.result (.pci .fc f.data[0] who f.ext (x.setWidth 12) f.data[2] f.data[3] []), .status .ok .empty] }) ∧
      (4 ≤ t.toNat → exec (.tpClassify f) s = .next { s with outs := s.outs ++
        [.status .invalidFrameType (.frameType t)] }))

/-- R189: TP_DISCARD empties the RECEIVING slots of the sender, or all of them, counts them, and leaves the segment. -/
def Obligations.DiscardEmptiesSlots : Prop :=
  ∀ (s : State) (who : Byte) (all : Bool),
    let hit : Slot → Bool := fun v => match v with
      | .idle => false
      | .receiving r => all || r.sender == who
    (enabled s = false → exec (.tpDiscard who all) s = .next { s with outs := s.outs ++ [.status .notConfigured .empty] }) ∧
    (enabled s = true → exec (.tpDiscard who all) s = .next { s with
      slots := s.slots.map (fun v => if hit v then .idle else v)
      outs := s.outs ++ [.status .ok (.discarded (s.slots.countP hit))] })

/-! ## Framer, sending (42_framer_tx.md) -/

/-- R210-R216: TP_SEND: a payload of 1..6 bytes is one SF, one of 7..4095 an FF with the rest pending; a pending segment is superseded;
other lengths keep it. -/
def Obligations.SendEffect : Prop :=
  ∀ (s : State) (r : Byte) (p : List Byte),
    (enabled s = false → exec (.tpSend r p) s = .next { s with outs := s.outs ++ [.status .notConfigured .empty] }) ∧
    (enabled s = true → p.length = 0 ∨ 4096 ≤ p.length →
      exec (.tpSend r p) s = .next { s with outs := s.outs ++ [.status .payloadLength (.length p.length)] }) ∧
    (enabled s = true → 1 ≤ p.length → p.length ≤ 6 → ∃ d : Vector Byte 8,
      exec (.tpSend r p) s = .next { s with tx := .none, outs := s.outs ++ [.txFrame (sentFrame s d), sendEnding s] } ∧
      d.toList = [r, BitVec.ofNat 8 p.length] ++ p ++ List.replicate (6 - p.length) (pad s)) ∧
    (enabled s = true → 7 ≤ p.length → p.length ≤ 4095 → ∃ d : Vector Byte 8,
      exec (.tpSend r p) s = .next { s with
        tx := .pending r (p.drop 5) 1, outs := s.outs ++ [.txFrame (sentFrame s d), sendEnding s] } ∧
      d.toList = [r, BitVec.ofNat 8 (0x10 + p.length / 256), BitVec.ofNat 8 (p.length % 256)] ++ p.take 5)

/-- R220, R222, R223, R224, R226: an FC from the segment's recipient, continue or (DRAIN_ANY) any status, drains the segment: the
`ceil(n/6)` frames, in order, the i-th with SN `sn + i` mod 16 and its six bytes, the last padded; whatever BS and STmin say. -/
def Obligations.FlowControlDrains : Prop :=
  ∀ (s : State) (who : Byte) (fs : Nibble) (bs st : Byte) (pd : Vector Byte 4) (rem : List Byte) (sn : Nibble),
    s.tx = .pending who rem sn → (strict s = false ∨ fs = 0) →
    ∃ ds : List (Vector Byte 8),
      exec (.isotpFc who fs bs st pd) s = .next { s with
        tx := .none, outs := s.outs ++ ds.map (fun d => .txFrame (sentFrame s d)) ++ [.status .ok .empty] } ∧
      ds.length = (rem.length + 5) / 6 ∧
      ∀ i d, ds[i]? = some d → d.toList =
        [who, (0x2#4) ++ (sn + BitVec.ofNat 4 i)] ++ (rem.drop (6 * i)).take 6 ++ List.replicate (6 - (rem.length - 6 * i)) (pad s)

/-- R228, R229: under STRICT, an FC wait from the recipient keeps the segment, and an FC abort discards it. -/
def Obligations.StrictWaitAndAbort : Prop :=
  ∀ (s : State) (who : Byte) (bs st : Byte) (pd : Vector Byte 4) (rem : List Byte) (sn : Nibble),
    s.tx = .pending who rem sn → strict s = true →
    exec (.isotpFc who 1 bs st pd) s = .next { s with outs := s.outs ++ [.status .ok .wait] } ∧
    exec (.isotpFc who 2 bs st pd) s = .next { s with tx := .none, outs := s.outs ++ [.status .txAborted (.recipient who)] }

/-- R220, R221, R230: under STRICT a status above 2 is INVALID_FC_STATUS, checked first; else an FC with no segment, or from another peer
than its recipient, is UNEXPECTED_FC; nothing changes. -/
def Obligations.FlowControlRefused : Prop :=
  ∀ (s : State) (who : Byte) (fs : Nibble) (bs st : Byte) (pd : Vector Byte 4),
    (strict s = true → 3 ≤ fs.toNat → exec (.isotpFc who fs bs st pd) s =
      .next { s with outs := s.outs ++ [.status .invalidFcStatus (.flowStatus fs)] }) ∧
    ((strict s = false ∨ fs.toNat ≤ 2) → (∀ rem sn, s.tx ≠ .pending who rem sn) → exec (.isotpFc who fs bs st pd) s =
      .next { s with outs := s.outs ++ [.status .unexpectedFc (.sender who)] })

/-- R104, R227: a payload of 7..4095 bytes goes out as one FF and, on an FC continue, `ceil((L - 5) / 6)` consecutive frames, and the segment
is gone. -/
def Obligations.PayloadFrameCount : Prop :=
  ∀ (s : State) (r : Byte) (p : List Byte) (bs st : Byte) (pd : Vector Byte 4),
    enabled s = true → 7 ≤ p.length → p.length ≤ 4095 →
    ∃ t, runAll [.tpSend r p, .isotpFc r 0 bs st pd] s = some t ∧ t.tx = .none ∧
      (txFramesOf (newEvents s t)).length = framesFor p.length

/-- R243, R176: a CFG2 write keeps slots and segment, and the next FC sent carries its BS and STmin. -/
def Obligations.NewFlowParametersApply : Prop :=
  ∀ (s : State) (v : Word32) (who : Byte) (len : Length12) (b : Vector Byte 5) (k : Nat),
    slotsLegal s → ffSlot who s k → 6 ≤ len.toNat →
    ∃ t, runAll [.cfgWrite 2 v, .isotpFf who len b] s = some t ∧ t.tx = s.tx ∧
      (∀ j, j ≠ k → t.slots[j]? = s.slots[j]?) ∧
      txFramesOf (newEvents s t) =
        [sentFrame s #v[who, 0x30, v.extractLsb' 0 8, v.extractLsb' 8 8, pad s, pad s, pad s, pad s]]

/-! ## Both ends (41_framer_rx.md R190) -/

/-- R190: segmenting a payload on one endpoint and reassembling it on another, with the flow control between them, delivers exactly
that payload, once. R190 needs two things it does not say (log 8): the low byte of BASE_ID is 0, so that a frame's sender is its LOCAL_ADDR,
and in PER_PEER mode the receiver has an IDLE slot. -/
def Obligations.SegmentReassembleRoundTrip : Prop :=
  ∀ (sa sb : State) (a b : Byte) (p : List Byte),
    enabled sa = true → enabled sb = true → localAddr sa = a → localAddr sb = b → baseId sa = baseId sb →
    (baseId sa).extractLsb' 0 8 = 0 → 1 ≤ p.length → p.length ≤ 4095 →
    noneReceivingFrom a sb → (perPeer sb = true → Slot.idle ∈ sb.slots) → 0 < sb.slots.length →
    ∃ t, exchange sa sb b p = some t ∧ payloadsOf (newEvents sb t) = [(a, p)]
end

