-- ==== Sys2Proof/Laws/State.lean ====
section
/-! SUPPORT. One lemma per field per update of the state, so that no proof unfolds a record update. -/

namespace Sys2Proof.Machine

/-! ## setCfg0 -/

@[simp] theorem setCfg0_cfg0 (s : State) (v : Word32) : (setCfg0 s v).cfg0 = v := rfl
@[simp] theorem setCfg0_cfg1 (s : State) (v : Word32) : (setCfg0 s v).cfg1 = s.cfg1 := rfl
@[simp] theorem setCfg0_cfg2 (s : State) (v : Word32) : (setCfg0 s v).cfg2 = s.cfg2 := rfl
@[simp] theorem setCfg0_sch (s : State) (v : Word32) : (setCfg0 s v).sch = s.sch := rfl
@[simp] theorem setCfg0_slots (s : State) (v : Word32) : (setCfg0 s v).slots = s.slots := rfl
@[simp] theorem setCfg0_tx (s : State) (v : Word32) : (setCfg0 s v).tx = s.tx := rfl
@[simp] theorem setCfg0_pos (s : State) (v : Word32) : (setCfg0 s v).pos = s.pos := rfl
@[simp] theorem setCfg0_input (s : State) (v : Word32) : (setCfg0 s v).input = s.input := rfl
@[simp] theorem setCfg0_outs (s : State) (v : Word32) : (setCfg0 s v).outs = s.outs := rfl

/-! ## setCfg1 -/

@[simp] theorem setCfg1_cfg0 (s : State) (v : Word32) : (setCfg1 s v).cfg0 = s.cfg0 := rfl
@[simp] theorem setCfg1_cfg1 (s : State) (v : Word32) : (setCfg1 s v).cfg1 = v := rfl
@[simp] theorem setCfg1_cfg2 (s : State) (v : Word32) : (setCfg1 s v).cfg2 = s.cfg2 := rfl
@[simp] theorem setCfg1_sch (s : State) (v : Word32) : (setCfg1 s v).sch = s.sch := rfl
@[simp] theorem setCfg1_slots (s : State) (v : Word32) : (setCfg1 s v).slots = s.slots := rfl
@[simp] theorem setCfg1_tx (s : State) (v : Word32) : (setCfg1 s v).tx = s.tx := rfl
@[simp] theorem setCfg1_pos (s : State) (v : Word32) : (setCfg1 s v).pos = s.pos := rfl
@[simp] theorem setCfg1_input (s : State) (v : Word32) : (setCfg1 s v).input = s.input := rfl
@[simp] theorem setCfg1_outs (s : State) (v : Word32) : (setCfg1 s v).outs = s.outs := rfl

/-! ## setCfg2 -/

@[simp] theorem setCfg2_cfg0 (s : State) (v : Word32) : (setCfg2 s v).cfg0 = s.cfg0 := rfl
@[simp] theorem setCfg2_cfg1 (s : State) (v : Word32) : (setCfg2 s v).cfg1 = s.cfg1 := rfl
@[simp] theorem setCfg2_cfg2 (s : State) (v : Word32) : (setCfg2 s v).cfg2 = v := rfl
@[simp] theorem setCfg2_sch (s : State) (v : Word32) : (setCfg2 s v).sch = s.sch := rfl
@[simp] theorem setCfg2_slots (s : State) (v : Word32) : (setCfg2 s v).slots = s.slots := rfl
@[simp] theorem setCfg2_tx (s : State) (v : Word32) : (setCfg2 s v).tx = s.tx := rfl
@[simp] theorem setCfg2_pos (s : State) (v : Word32) : (setCfg2 s v).pos = s.pos := rfl
@[simp] theorem setCfg2_input (s : State) (v : Word32) : (setCfg2 s v).input = s.input := rfl
@[simp] theorem setCfg2_outs (s : State) (v : Word32) : (setCfg2 s v).outs = s.outs := rfl

/-! ## setSch -/

@[simp] theorem setSch_cfg0 (s : State) (t : List SchemaEntry) : (setSch s t).cfg0 = s.cfg0 := rfl
@[simp] theorem setSch_cfg1 (s : State) (t : List SchemaEntry) : (setSch s t).cfg1 = s.cfg1 := rfl
@[simp] theorem setSch_cfg2 (s : State) (t : List SchemaEntry) : (setSch s t).cfg2 = s.cfg2 := rfl
@[simp] theorem setSch_sch (s : State) (t : List SchemaEntry) : (setSch s t).sch = t := rfl
@[simp] theorem setSch_slots (s : State) (t : List SchemaEntry) : (setSch s t).slots = s.slots := rfl
@[simp] theorem setSch_tx (s : State) (t : List SchemaEntry) : (setSch s t).tx = s.tx := rfl
@[simp] theorem setSch_pos (s : State) (t : List SchemaEntry) : (setSch s t).pos = s.pos := rfl
@[simp] theorem setSch_input (s : State) (t : List SchemaEntry) : (setSch s t).input = s.input := rfl
@[simp] theorem setSch_outs (s : State) (t : List SchemaEntry) : (setSch s t).outs = s.outs := rfl

/-! ## setSlots -/

@[simp] theorem setSlots_cfg0 (s : State) (ks : List Slot) : (setSlots s ks).cfg0 = s.cfg0 := rfl
@[simp] theorem setSlots_cfg1 (s : State) (ks : List Slot) : (setSlots s ks).cfg1 = s.cfg1 := rfl
@[simp] theorem setSlots_cfg2 (s : State) (ks : List Slot) : (setSlots s ks).cfg2 = s.cfg2 := rfl
@[simp] theorem setSlots_sch (s : State) (ks : List Slot) : (setSlots s ks).sch = s.sch := rfl
@[simp] theorem setSlots_slots (s : State) (ks : List Slot) : (setSlots s ks).slots = ks := rfl
@[simp] theorem setSlots_tx (s : State) (ks : List Slot) : (setSlots s ks).tx = s.tx := rfl
@[simp] theorem setSlots_pos (s : State) (ks : List Slot) : (setSlots s ks).pos = s.pos := rfl
@[simp] theorem setSlots_input (s : State) (ks : List Slot) : (setSlots s ks).input = s.input := rfl
@[simp] theorem setSlots_outs (s : State) (ks : List Slot) : (setSlots s ks).outs = s.outs := rfl

/-! ## setTx -/

@[simp] theorem setTx_cfg0 (s : State) (t : TxSeg) : (setTx s t).cfg0 = s.cfg0 := rfl
@[simp] theorem setTx_cfg1 (s : State) (t : TxSeg) : (setTx s t).cfg1 = s.cfg1 := rfl
@[simp] theorem setTx_cfg2 (s : State) (t : TxSeg) : (setTx s t).cfg2 = s.cfg2 := rfl
@[simp] theorem setTx_sch (s : State) (t : TxSeg) : (setTx s t).sch = s.sch := rfl
@[simp] theorem setTx_slots (s : State) (t : TxSeg) : (setTx s t).slots = s.slots := rfl
@[simp] theorem setTx_tx (s : State) (t : TxSeg) : (setTx s t).tx = t := rfl
@[simp] theorem setTx_pos (s : State) (t : TxSeg) : (setTx s t).pos = s.pos := rfl
@[simp] theorem setTx_input (s : State) (t : TxSeg) : (setTx s t).input = s.input := rfl
@[simp] theorem setTx_outs (s : State) (t : TxSeg) : (setTx s t).outs = s.outs := rfl

/-! ## setPos -/

@[simp] theorem setPos_cfg0 (s : State) (n : Nat) : (setPos s n).cfg0 = s.cfg0 := rfl
@[simp] theorem setPos_cfg1 (s : State) (n : Nat) : (setPos s n).cfg1 = s.cfg1 := rfl
@[simp] theorem setPos_cfg2 (s : State) (n : Nat) : (setPos s n).cfg2 = s.cfg2 := rfl
@[simp] theorem setPos_sch (s : State) (n : Nat) : (setPos s n).sch = s.sch := rfl
@[simp] theorem setPos_slots (s : State) (n : Nat) : (setPos s n).slots = s.slots := rfl
@[simp] theorem setPos_tx (s : State) (n : Nat) : (setPos s n).tx = s.tx := rfl
@[simp] theorem setPos_pos (s : State) (n : Nat) : (setPos s n).pos = n := rfl
@[simp] theorem setPos_input (s : State) (n : Nat) : (setPos s n).input = s.input := rfl
@[simp] theorem setPos_outs (s : State) (n : Nat) : (setPos s n).outs = s.outs := rfl

/-! ## setInput -/

@[simp] theorem setInput_cfg0 (s : State) (is : List HostInput) : (setInput s is).cfg0 = s.cfg0 := rfl
@[simp] theorem setInput_cfg1 (s : State) (is : List HostInput) : (setInput s is).cfg1 = s.cfg1 := rfl
@[simp] theorem setInput_cfg2 (s : State) (is : List HostInput) : (setInput s is).cfg2 = s.cfg2 := rfl
@[simp] theorem setInput_sch (s : State) (is : List HostInput) : (setInput s is).sch = s.sch := rfl
@[simp] theorem setInput_slots (s : State) (is : List HostInput) : (setInput s is).slots = s.slots := rfl
@[simp] theorem setInput_tx (s : State) (is : List HostInput) : (setInput s is).tx = s.tx := rfl
@[simp] theorem setInput_pos (s : State) (is : List HostInput) : (setInput s is).pos = s.pos := rfl
@[simp] theorem setInput_input (s : State) (is : List HostInput) : (setInput s is).input = is := rfl
@[simp] theorem setInput_outs (s : State) (is : List HostInput) : (setInput s is).outs = s.outs := rfl

/-! ## emits -/

@[simp] theorem emits_cfg0 (s : State) (es : List Event) : (emits s es).cfg0 = s.cfg0 := rfl
@[simp] theorem emits_cfg1 (s : State) (es : List Event) : (emits s es).cfg1 = s.cfg1 := rfl
@[simp] theorem emits_cfg2 (s : State) (es : List Event) : (emits s es).cfg2 = s.cfg2 := rfl
@[simp] theorem emits_sch (s : State) (es : List Event) : (emits s es).sch = s.sch := rfl
@[simp] theorem emits_slots (s : State) (es : List Event) : (emits s es).slots = s.slots := rfl
@[simp] theorem emits_tx (s : State) (es : List Event) : (emits s es).tx = s.tx := rfl
@[simp] theorem emits_pos (s : State) (es : List Event) : (emits s es).pos = s.pos := rfl
@[simp] theorem emits_input (s : State) (es : List Event) : (emits s es).input = s.input := rfl
@[simp] theorem emits_outs (s : State) (es : List Event) : (emits s es).outs = s.outs ++ es := rfl

/-! ## setSlot, framerReset, takeInput, resetEvent -/

@[simp] theorem setSlot_cfg0 (s : State) (k : Nat) (v : Slot) : (setSlot s k v).cfg0 = s.cfg0 := rfl
@[simp] theorem setSlot_cfg1 (s : State) (k : Nat) (v : Slot) : (setSlot s k v).cfg1 = s.cfg1 := rfl
@[simp] theorem setSlot_cfg2 (s : State) (k : Nat) (v : Slot) : (setSlot s k v).cfg2 = s.cfg2 := rfl
@[simp] theorem setSlot_sch (s : State) (k : Nat) (v : Slot) : (setSlot s k v).sch = s.sch := rfl
@[simp] theorem setSlot_slots (s : State) (k : Nat) (v : Slot) : (setSlot s k v).slots = s.slots.set k v := rfl
@[simp] theorem setSlot_tx (s : State) (k : Nat) (v : Slot) : (setSlot s k v).tx = s.tx := rfl
@[simp] theorem setSlot_pos (s : State) (k : Nat) (v : Slot) : (setSlot s k v).pos = s.pos := rfl
@[simp] theorem setSlot_input (s : State) (k : Nat) (v : Slot) : (setSlot s k v).input = s.input := rfl
@[simp] theorem setSlot_outs (s : State) (k : Nat) (v : Slot) : (setSlot s k v).outs = s.outs := rfl

@[simp] theorem framerReset_cfg0 (s : State) : (framerReset s).cfg0 = s.cfg0 := rfl
@[simp] theorem framerReset_cfg1 (s : State) : (framerReset s).cfg1 = s.cfg1 := rfl
@[simp] theorem framerReset_cfg2 (s : State) : (framerReset s).cfg2 = s.cfg2 := rfl
@[simp] theorem framerReset_sch (s : State) : (framerReset s).sch = s.sch := rfl
@[simp] theorem framerReset_slots (s : State) : (framerReset s).slots = s.slots.map (fun _ => .idle) := rfl
@[simp] theorem framerReset_tx (s : State) : (framerReset s).tx = .none := rfl
@[simp] theorem framerReset_pos (s : State) : (framerReset s).pos = s.pos := rfl
@[simp] theorem framerReset_input (s : State) : (framerReset s).input = s.input := rfl
@[simp] theorem framerReset_outs (s : State) : (framerReset s).outs = s.outs := rfl

@[simp] theorem takeInput_cfg0 (s : State) (rest : List HostInput) : (takeInput s rest).cfg0 = s.cfg0 := rfl
@[simp] theorem takeInput_cfg1 (s : State) (rest : List HostInput) : (takeInput s rest).cfg1 = s.cfg1 := rfl
@[simp] theorem takeInput_cfg2 (s : State) (rest : List HostInput) : (takeInput s rest).cfg2 = s.cfg2 := rfl
@[simp] theorem takeInput_sch (s : State) (rest : List HostInput) : (takeInput s rest).sch = s.sch := rfl
@[simp] theorem takeInput_slots (s : State) (rest : List HostInput) : (takeInput s rest).slots = s.slots := rfl
@[simp] theorem takeInput_tx (s : State) (rest : List HostInput) : (takeInput s rest).tx = s.tx := rfl
@[simp] theorem takeInput_pos (s : State) (rest : List HostInput) : (takeInput s rest).pos = s.pos + 1 := rfl
@[simp] theorem takeInput_input (s : State) (rest : List HostInput) : (takeInput s rest).input = rest := rfl
@[simp] theorem takeInput_outs (s : State) (rest : List HostInput) : (takeInput s rest).outs = s.outs := rfl

@[simp] theorem resetEvent_cfg0 (s : State) : (resetEvent s).cfg0 = 0x00000002 := rfl
@[simp] theorem resetEvent_cfg1 (s : State) : (resetEvent s).cfg1 = 0x00000600 := rfl
@[simp] theorem resetEvent_cfg2 (s : State) : (resetEvent s).cfg2 = 0x00000100 := rfl
@[simp] theorem resetEvent_sch (s : State) : (resetEvent s).sch = List.replicate s.sch.length SchemaEntry.zero := rfl
@[simp] theorem resetEvent_slots (s : State) : (resetEvent s).slots = List.replicate s.slots.length .idle := rfl
@[simp] theorem resetEvent_tx (s : State) : (resetEvent s).tx = .none := rfl
@[simp] theorem resetEvent_pos (s : State) : (resetEvent s).pos = 0 := rfl
@[simp] theorem resetEvent_input (s : State) : (resetEvent s).input = s.input := rfl
@[simp] theorem resetEvent_outs (s : State) : (resetEvent s).outs = s.outs := rfl

/-! ## Register fields read only their register -/

@[simp] theorem enabled_setCfg1 (s : State) (v : Word32) : enabled (setCfg1 s v) = enabled s := rfl
@[simp] theorem enabled_setCfg2 (s : State) (v : Word32) : enabled (setCfg2 s v) = enabled s := rfl
@[simp] theorem enabled_setSch (s : State) (t : List SchemaEntry) : enabled (setSch s t) = enabled s := rfl
@[simp] theorem enabled_setSlots (s : State) (ks : List Slot) : enabled (setSlots s ks) = enabled s := rfl
@[simp] theorem enabled_setTx (s : State) (t : TxSeg) : enabled (setTx s t) = enabled s := rfl
@[simp] theorem enabled_setPos (s : State) (n : Nat) : enabled (setPos s n) = enabled s := rfl
@[simp] theorem enabled_setInput (s : State) (is : List HostInput) : enabled (setInput s is) = enabled s := rfl
@[simp] theorem enabled_emits (s : State) (es : List Event) : enabled (emits s es) = enabled s := rfl
@[simp] theorem enabled_setSlot (s : State) (k : Nat) (v : Slot) : enabled (setSlot s k v) = enabled s := rfl
@[simp] theorem enabled_takeInput (s : State) (rest : List HostInput) : enabled (takeInput s rest) = enabled s := rfl
@[simp] theorem enabled_framerReset (s : State) : enabled (framerReset s) = enabled s := rfl
@[simp] theorem perPeer_setCfg1 (s : State) (v : Word32) : perPeer (setCfg1 s v) = perPeer s := rfl
@[simp] theorem perPeer_setCfg2 (s : State) (v : Word32) : perPeer (setCfg2 s v) = perPeer s := rfl
@[simp] theorem perPeer_setSch (s : State) (t : List SchemaEntry) : perPeer (setSch s t) = perPeer s := rfl
@[simp] theorem perPeer_setSlots (s : State) (ks : List Slot) : perPeer (setSlots s ks) = perPeer s := rfl
@[simp] theorem perPeer_setTx (s : State) (t : TxSeg) : perPeer (setTx s t) = perPeer s := rfl
@[simp] theorem perPeer_setPos (s : State) (n : Nat) : perPeer (setPos s n) = perPeer s := rfl
@[simp] theorem perPeer_setInput (s : State) (is : List HostInput) : perPeer (setInput s is) = perPeer s := rfl
@[simp] theorem perPeer_emits (s : State) (es : List Event) : perPeer (emits s es) = perPeer s := rfl
@[simp] theorem perPeer_setSlot (s : State) (k : Nat) (v : Slot) : perPeer (setSlot s k v) = perPeer s := rfl
@[simp] theorem perPeer_takeInput (s : State) (rest : List HostInput) : perPeer (takeInput s rest) = perPeer s := rfl
@[simp] theorem perPeer_framerReset (s : State) : perPeer (framerReset s) = perPeer s := rfl
@[simp] theorem strict_setCfg1 (s : State) (v : Word32) : strict (setCfg1 s v) = strict s := rfl
@[simp] theorem strict_setCfg2 (s : State) (v : Word32) : strict (setCfg2 s v) = strict s := rfl
@[simp] theorem strict_setSch (s : State) (t : List SchemaEntry) : strict (setSch s t) = strict s := rfl
@[simp] theorem strict_setSlots (s : State) (ks : List Slot) : strict (setSlots s ks) = strict s := rfl
@[simp] theorem strict_setTx (s : State) (t : TxSeg) : strict (setTx s t) = strict s := rfl
@[simp] theorem strict_setPos (s : State) (n : Nat) : strict (setPos s n) = strict s := rfl
@[simp] theorem strict_setInput (s : State) (is : List HostInput) : strict (setInput s is) = strict s := rfl
@[simp] theorem strict_emits (s : State) (es : List Event) : strict (emits s es) = strict s := rfl
@[simp] theorem strict_setSlot (s : State) (k : Nat) (v : Slot) : strict (setSlot s k v) = strict s := rfl
@[simp] theorem strict_takeInput (s : State) (rest : List HostInput) : strict (takeInput s rest) = strict s := rfl
@[simp] theorem strict_framerReset (s : State) : strict (framerReset s) = strict s := rfl
@[simp] theorem localAddr_setCfg1 (s : State) (v : Word32) : localAddr (setCfg1 s v) = localAddr s := rfl
@[simp] theorem localAddr_setCfg2 (s : State) (v : Word32) : localAddr (setCfg2 s v) = localAddr s := rfl
@[simp] theorem localAddr_setSch (s : State) (t : List SchemaEntry) : localAddr (setSch s t) = localAddr s := rfl
@[simp] theorem localAddr_setSlots (s : State) (ks : List Slot) : localAddr (setSlots s ks) = localAddr s := rfl
@[simp] theorem localAddr_setTx (s : State) (t : TxSeg) : localAddr (setTx s t) = localAddr s := rfl
@[simp] theorem localAddr_setPos (s : State) (n : Nat) : localAddr (setPos s n) = localAddr s := rfl
@[simp] theorem localAddr_setInput (s : State) (is : List HostInput) : localAddr (setInput s is) = localAddr s := rfl
@[simp] theorem localAddr_emits (s : State) (es : List Event) : localAddr (emits s es) = localAddr s := rfl
@[simp] theorem localAddr_setSlot (s : State) (k : Nat) (v : Slot) : localAddr (setSlot s k v) = localAddr s := rfl
@[simp] theorem localAddr_takeInput (s : State) (rest : List HostInput) : localAddr (takeInput s rest) = localAddr s := rfl
@[simp] theorem localAddr_framerReset (s : State) : localAddr (framerReset s) = localAddr s := rfl
@[simp] theorem pad_setCfg1 (s : State) (v : Word32) : pad (setCfg1 s v) = pad s := rfl
@[simp] theorem pad_setCfg2 (s : State) (v : Word32) : pad (setCfg2 s v) = pad s := rfl
@[simp] theorem pad_setSch (s : State) (t : List SchemaEntry) : pad (setSch s t) = pad s := rfl
@[simp] theorem pad_setSlots (s : State) (ks : List Slot) : pad (setSlots s ks) = pad s := rfl
@[simp] theorem pad_setTx (s : State) (t : TxSeg) : pad (setTx s t) = pad s := rfl
@[simp] theorem pad_setPos (s : State) (n : Nat) : pad (setPos s n) = pad s := rfl
@[simp] theorem pad_setInput (s : State) (is : List HostInput) : pad (setInput s is) = pad s := rfl
@[simp] theorem pad_emits (s : State) (es : List Event) : pad (emits s es) = pad s := rfl
@[simp] theorem pad_setSlot (s : State) (k : Nat) (v : Slot) : pad (setSlot s k v) = pad s := rfl
@[simp] theorem pad_takeInput (s : State) (rest : List HostInput) : pad (takeInput s rest) = pad s := rfl
@[simp] theorem pad_framerReset (s : State) : pad (framerReset s) = pad s := rfl
@[simp] theorem baseId_setCfg0 (s : State) (v : Word32) : baseId (setCfg0 s v) = baseId s := rfl
@[simp] theorem baseId_setCfg2 (s : State) (v : Word32) : baseId (setCfg2 s v) = baseId s := rfl
@[simp] theorem baseId_setSch (s : State) (t : List SchemaEntry) : baseId (setSch s t) = baseId s := rfl
@[simp] theorem baseId_setSlots (s : State) (ks : List Slot) : baseId (setSlots s ks) = baseId s := rfl
@[simp] theorem baseId_setTx (s : State) (t : TxSeg) : baseId (setTx s t) = baseId s := rfl
@[simp] theorem baseId_setPos (s : State) (n : Nat) : baseId (setPos s n) = baseId s := rfl
@[simp] theorem baseId_setInput (s : State) (is : List HostInput) : baseId (setInput s is) = baseId s := rfl
@[simp] theorem baseId_emits (s : State) (es : List Event) : baseId (emits s es) = baseId s := rfl
@[simp] theorem baseId_setSlot (s : State) (k : Nat) (v : Slot) : baseId (setSlot s k v) = baseId s := rfl
@[simp] theorem baseId_takeInput (s : State) (rest : List HostInput) : baseId (takeInput s rest) = baseId s := rfl
@[simp] theorem baseId_framerReset (s : State) : baseId (framerReset s) = baseId s := rfl
@[simp] theorem fcBs_setCfg0 (s : State) (v : Word32) : fcBs (setCfg0 s v) = fcBs s := rfl
@[simp] theorem fcBs_setCfg1 (s : State) (v : Word32) : fcBs (setCfg1 s v) = fcBs s := rfl
@[simp] theorem fcBs_setSch (s : State) (t : List SchemaEntry) : fcBs (setSch s t) = fcBs s := rfl
@[simp] theorem fcBs_setSlots (s : State) (ks : List Slot) : fcBs (setSlots s ks) = fcBs s := rfl
@[simp] theorem fcBs_setTx (s : State) (t : TxSeg) : fcBs (setTx s t) = fcBs s := rfl
@[simp] theorem fcBs_setPos (s : State) (n : Nat) : fcBs (setPos s n) = fcBs s := rfl
@[simp] theorem fcBs_setInput (s : State) (is : List HostInput) : fcBs (setInput s is) = fcBs s := rfl
@[simp] theorem fcBs_emits (s : State) (es : List Event) : fcBs (emits s es) = fcBs s := rfl
@[simp] theorem fcBs_setSlot (s : State) (k : Nat) (v : Slot) : fcBs (setSlot s k v) = fcBs s := rfl
@[simp] theorem fcBs_takeInput (s : State) (rest : List HostInput) : fcBs (takeInput s rest) = fcBs s := rfl
@[simp] theorem fcBs_framerReset (s : State) : fcBs (framerReset s) = fcBs s := rfl
@[simp] theorem fcStmin_setCfg0 (s : State) (v : Word32) : fcStmin (setCfg0 s v) = fcStmin s := rfl
@[simp] theorem fcStmin_setCfg1 (s : State) (v : Word32) : fcStmin (setCfg1 s v) = fcStmin s := rfl
@[simp] theorem fcStmin_setSch (s : State) (t : List SchemaEntry) : fcStmin (setSch s t) = fcStmin s := rfl
@[simp] theorem fcStmin_setSlots (s : State) (ks : List Slot) : fcStmin (setSlots s ks) = fcStmin s := rfl
@[simp] theorem fcStmin_setTx (s : State) (t : TxSeg) : fcStmin (setTx s t) = fcStmin s := rfl
@[simp] theorem fcStmin_setPos (s : State) (n : Nat) : fcStmin (setPos s n) = fcStmin s := rfl
@[simp] theorem fcStmin_setInput (s : State) (is : List HostInput) : fcStmin (setInput s is) = fcStmin s := rfl
@[simp] theorem fcStmin_emits (s : State) (es : List Event) : fcStmin (emits s es) = fcStmin s := rfl
@[simp] theorem fcStmin_setSlot (s : State) (k : Nat) (v : Slot) : fcStmin (setSlot s k v) = fcStmin s := rfl
@[simp] theorem fcStmin_takeInput (s : State) (rest : List HostInput) : fcStmin (takeInput s rest) = fcStmin s := rfl
@[simp] theorem fcStmin_framerReset (s : State) : fcStmin (framerReset s) = fcStmin s := rfl

end Sys2Proof.Machine
end

