-- ==== Sys2Proof/Laws/Words.lean ====
section
/-! SUPPORT. Words and bytes: a word is the bytes it is split into and back, header fields, and decoding a header's bytes. -/

namespace Sys2Proof

theorem extract_append_low {m n : Nat} (x : BitVec m) (y : BitVec n) : (x ++ y).extractLsb' 0 n = y := by
  ext i hi
  simp [BitVec.getElem_extractLsb', BitVec.getLsbD_append, hi]

theorem extract_append_high {m n : Nat} (x : BitVec m) (y : BitVec n) : (x ++ y).extractLsb' n m = x := by
  ext i hi
  simp [BitVec.getElem_extractLsb', BitVec.getLsbD_append, hi]

theorem extract_self {n : Nat} (x : BitVec n) : x.extractLsb' 0 n = x := by
  ext i hi
  simp

/-- Two neighbouring pieces of a word are one piece. -/
theorem extract_glue {n : Nat} (x : BitVec n) (s k j : Nat) :
    x.extractLsb' (s + j) k ++ x.extractLsb' s j = x.extractLsb' s (k + j) := by
  ext i hi
  simp only [BitVec.getElem_append, BitVec.getElem_extractLsb']
  split
  · rfl
  · congr 1
    omega

@[simp] theorem le16_bytes (w : BitVec 16) : le16 (w.extractLsb' 0 8) (w.extractLsb' 8 8) = w :=
  (extract_glue w 0 8 8).trans (extract_self w)

@[simp] theorem le32_bytes (w : Word32) :
    le32 (w.extractLsb' 0 8) (w.extractLsb' 8 8) (w.extractLsb' 16 8) (w.extractLsb' 24 8) = w := by
  unfold le32
  rw [extract_glue w 16 8 8, extract_glue w 8 (8 + 8) 8, extract_glue w 0 (8 + 8 + 8) 8]
  exact extract_self w

@[simp] theorem le64_bytes (w : Word64) :
    le64 (w.extractLsb' 0 8) (w.extractLsb' 8 8) (w.extractLsb' 16 8) (w.extractLsb' 24 8)
      (w.extractLsb' 32 8) (w.extractLsb' 40 8) (w.extractLsb' 48 8) (w.extractLsb' 56 8) = w := by
  unfold le64
  rw [extract_glue w 48 8 8, extract_glue w 40 (8 + 8) 8, extract_glue w 32 (8 + 8 + 8) 8,
    extract_glue w 24 (8 + 8 + 8 + 8) 8, extract_glue w 16 (8 + 8 + 8 + 8 + 8) 8,
    extract_glue w 8 (8 + 8 + 8 + 8 + 8 + 8) 8, extract_glue w 0 (8 + 8 + 8 + 8 + 8 + 8 + 8) 8]
  exact extract_self w

theorem bytes16_le16 (b0 b1 : Byte) : bytes16 (le16 b0 b1) = [b0, b1] := by
  simp only [bytes16, le16, List.cons.injEq, and_true]
  exact ⟨extract_append_low _ _, extract_append_high _ _⟩

theorem extract_append_of_le {m n s k : Nat} (x : BitVec m) (y : BitVec n) (h : s + k ≤ n) :
    (x ++ y).extractLsb' s k = y.extractLsb' s k := by
  ext i hi
  simp only [BitVec.getElem_extractLsb', BitVec.getLsbD_append]
  rw [if_pos (by omega)]

theorem extract_append_of_ge {m n s k : Nat} (x : BitVec m) (y : BitVec n) (h : n ≤ s) :
    (x ++ y).extractLsb' s k = x.extractLsb' (s - n) k := by
  ext i hi
  simp only [BitVec.getElem_extractLsb', BitVec.getLsbD_append]
  rw [if_neg (by omega)]
  congr 1
  omega

theorem bytes32_le32 (b0 b1 b2 b3 : Byte) : bytes32 (le32 b0 b1 b2 b3) = [b0, b1, b2, b3] := by
  simp only [bytes32, le32, List.cons.injEq, and_true]
  refine ⟨?_, ?_, ?_, ?_⟩
  · rw [extract_append_low]
  · rw [extract_append_of_ge _ _ (by omega), extract_append_low]
  · rw [extract_append_of_ge _ _ (by omega), extract_append_of_ge _ _ (by omega), extract_append_low]
  · rw [extract_append_of_ge _ _ (by omega), extract_append_of_ge _ _ (by omega), extract_append_of_ge _ _ (by omega)]
    exact extract_self _

theorem bytes64_le64 (b0 b1 b2 b3 b4 b5 b6 b7 : Byte) :
    bytes64 (le64 b0 b1 b2 b3 b4 b5 b6 b7) = [b0, b1, b2, b3, b4, b5, b6, b7] := by
  simp only [bytes64, le64, List.cons.injEq, and_true]
  refine ⟨?_, ?_, ?_, ?_, ?_, ?_, ?_, ?_⟩
  · rw [extract_append_low]
  · rw [extract_append_of_ge _ _ (by omega), extract_append_low]
  · iterate 2 rw [extract_append_of_ge _ _ (by omega)]
    rw [extract_append_low]
  · iterate 3 rw [extract_append_of_ge _ _ (by omega)]
    rw [extract_append_low]
  · iterate 4 rw [extract_append_of_ge _ _ (by omega)]
    rw [extract_append_low]
  · iterate 5 rw [extract_append_of_ge _ _ (by omega)]
    rw [extract_append_low]
  · iterate 6 rw [extract_append_of_ge _ _ (by omega)]
    rw [extract_append_low]
  · iterate 7 rw [extract_append_of_ge _ _ (by omega)]
    exact extract_self _

/-! ## Headers -/

@[simp] theorem headerOpc_header (opc a b : Byte) : headerOpc (header opc a b) = opc := by
  simp only [headerOpc, header]
  rw [extract_append_low]

@[simp] theorem headerA_header (opc a b : Byte) : headerA (header opc a b) = a := by
  simp only [headerA, header]
  rw [extract_append_of_ge _ _ (by omega), extract_append_low]

@[simp] theorem headerB_header (opc a b : Byte) : headerB (header opc a b) = b := by
  simp only [headerB, header]
  rw [extract_append_of_ge _ _ (by omega), extract_append_of_ge _ _ (by omega), extract_append_low]

/-- A header is its fields when its top byte, C, is 0. -/
theorem header_fields (h : Word32) (hc : h.extractLsb' 24 8 = 0) : header (headerOpc h) (headerA h) (headerB h) = h := by
  conv_rhs => rw [← le32_bytes h, hc]
  rfl

/-! ## Decoding bytes -/

/-- Decoding a header's bytes and then an operand block. -/
@[simp] theorem decode_bytes32 (h : Word32) (ops : List Byte) : decode (bytes32 h ++ ops) = decodeHeader h ops := by
  simp [decode, bytes32]

/-- The next word of an operand block that begins with a word's bytes. -/
@[simp] theorem takeWord64_bytes64 (w : Word64) (rest : List Byte) : takeWord64 (bytes64 w ++ rest) = some (w, rest) := by
  simp [takeWord64, bytes64]

/-- The words of an operand block that begins with their bytes. -/
theorem takeWords64_bytes64 (ws : List Word64) (rest : List Byte) :
    takeWords64 ws.length (ws.flatMap bytes64 ++ rest) = some (ws, rest) := by
  induction ws with
  | nil => rfl
  | cons w ws ih => simp [takeWords64, List.append_assoc, ih]

/-- What a word read off an operand block says of it. -/
theorem takeWord64_some {ops rest : List Byte} {w : Word64} (h : takeWord64 ops = some (w, rest)) : ops = bytes64 w ++ rest := by
  unfold takeWord64 at h
  split at h
  · obtain ⟨rfl, rfl⟩ : _ ∧ _ := by simpa using h
    simp [bytes64_le64]
  · cases h

/-- What `n` words read off an operand block say of it. -/
theorem takeWords64_some {n : Nat} {ops rest : List Byte} {ws : List Word64} (h : takeWords64 n ops = some (ws, rest)) :
    ws.length = n ∧ ops = ws.flatMap bytes64 ++ rest := by
  induction n generalizing ops ws with
  | zero =>
    obtain ⟨rfl, rfl⟩ : [] = ws ∧ ops = rest := by simpa [takeWords64] using h
    simp
  | succ n ih =>
    simp only [takeWords64] at h
    split at h
    · cases h
    · rename_i w r hw
      split at h
      · cases h
      · rename_i us r' hr
        obtain ⟨rfl, rfl⟩ : w :: us = ws ∧ r' = rest := by simpa using h
        obtain ⟨hl, hr⟩ := ih hr
        refine ⟨by simp [hl], ?_⟩
        rw [takeWord64_some hw, hr]
        simp

/-! ## Frame operands -/

@[simp] theorem frameWord0_id (f : RawFrame) : (frameWord0 f).extractLsb' 0 29 = f.id := by
  simp only [frameWord0]
  rw [extract_append_low]

@[simp] theorem frameWord0_ext (f : RawFrame) : (frameWord0 f).getLsbD 29 = f.ext := by
  simp only [frameWord0, BitVec.getLsbD_append]
  cases f.ext <;> simp

@[simp] theorem frameWord1_dlc (f : RawFrame) : (frameWord1 f).extractLsb' 0 4 = f.dlc := by
  simp only [frameWord1]
  rw [extract_append_low]

@[simp] theorem frameWords_not_reserved (f : RawFrame) : frameWordsReserved (frameWord0 f) (frameWord1 f) = false := by
  simp only [frameWordsReserved, frameWord0, frameWord1]
  rw [extract_append_of_ge _ _ (by omega), extract_append_of_ge _ _ (by omega), extract_append_of_ge _ _ (by omega)]
  simp

/-- A frame is the fields of its two operand words. -/
@[simp] theorem frameOfWords_words (f : RawFrame) : frameOfWords (frameWord0 f) (frameWord1 f) f.data = f := by
  simp only [frameOfWords, frameWord0_id, frameWord0_ext, frameWord1_dlc]

end Sys2Proof
end

