-- ==== Sys2Proof/Laws/Ops.lean ====
section
/-! SUPPORT. For each shared operation, one lemma that says everything it can do. -/

namespace Sys2Proof.Machine

/-! ## Ending a command -/

theorem finish_eq (s : State) (es : List Event) (c : Code) (info : Info) :
    finish s es c info = .next { s with outs := s.outs ++ (es ++ [.status c info]) } := rfl

theorem raise_eq (s : State) (c : Code) (info : Info) :
    raise s c info = .next { s with outs := s.outs ++ [.status c info] } := rfl

theorem done_eq (s : State) (es : List Event) :
    done s es = .next { s with outs := s.outs ++ (es ++ [.status .ok .empty]) } := rfl

/-- The events a `finish` adds to a state whose output it left alone. -/
theorem newEvents_append (s t : State) (es : List Event) (h : t.outs = s.outs ++ es) : newEvents s t = es := by
  simp [newEvents, h]

/-! ## Status codes (60_exceptions.md R261) -/

/-- No two codes share a number. -/
theorem codeNumber_injective (c d : Code) (h : codeNumber c = codeNumber d) : c = d := by
  revert h
  cases c <;> cases d <;> decide

/-! ## Frames -/

theorem wellFormedFrame_iff (f : RawFrame) : wellFormedFrame f = true ↔ frameLegal f := by
  unfold wellFormedFrame frameLegal
  cases f.ext <;> simp

/-- `Accept` raises nothing exactly on the frames R162 lets through. -/
theorem acceptError_none_iff (f : RawFrame) (s : State) : acceptError f s = none ↔ acceptable f s := by
  have hw := wellFormedFrame_iff f
  unfold acceptError acceptable
  constructor
  · intro h
    repeat' split at h
    all_goals try cases h
    rename_i h1 h2 h3 h4 h5
    simp only [Bool.not_eq_eq_eq_not, Bool.not_true] at h1 h2
    simp only [ne_eq, not_or, not_not, Bool.not_eq_true] at h3 h4 h5
    have hl := hw.mp (by simpa using h2)
    exact ⟨by simpa using h1, h3.1, hl.2 h3.1, h3.2, h4, h5⟩
  · rintro ⟨h1, h2, h3, h4, h5, h6⟩
    have : wellFormedFrame f = true := hw.mpr ⟨by simp [h5], fun _ => h3⟩
    simp [h1, this, h2, h4, h5, h6]

/-! ## Padding -/

theorem padTo8_toList (fill : Byte) (l : List Byte) (h : l.length ≤ 8) :
    (padTo8 fill l).toList = l ++ List.replicate (8 - l.length) fill := by
  match l, h with
  | [], _ => rfl
  | [_], _ => rfl
  | [_, _], _ => rfl
  | [_, _, _], _ => rfl
  | [_, _, _, _], _ => rfl
  | [_, _, _, _, _], _ => rfl
  | [_, _, _, _, _, _], _ => rfl
  | [_, _, _, _, _, _, _], _ => rfl
  | [_, _, _, _, _, _, _, _], _ => rfl

theorem sentFrame_eq (s : State) (d : Vector Byte 8) : txFrameOf s d = sentFrame s d := rfl

theorem fcFrame_eq (s : State) (who : Byte) :
    fcFrame s who = sentFrame s #v[who, 0x30, fcBs s, fcStmin s, pad s, pad s, pad s, pad s] := rfl

/-! ## Schema entries -/

theorem validEntry_some_iff (s : State) (k : Nat) (e : SchemaEntry) : validEntry s k = some e ↔ schemaValid s k e := by
  have hu : entryUsable e = true ↔ entryIsValid e = true ∧ entryFields e ≤ 8 ∧
      (∀ i, i < entryFields e → 1 ≤ fieldWidth e i ∧ fieldWidth e i ≤ 8) ∧ entryLen e ≤ 8 ∧
      (entryExt e = false → (entryId e).toNat < 0x800) := by
    unfold entryUsable
    cases entryExt e <;> simp [and_assoc]
  unfold validEntry schemaValid
  split
  · simp_all
  · rename_i e' he
    rw [he]
    split
    · rename_i hv
      constructor
      · intro h
        cases h
        exact ⟨rfl, hu.mp hv⟩
      · rintro ⟨h, -⟩
        exact h
    · rename_i hv
      constructor
      · intro h
        cases h
      · rintro ⟨h, hr⟩
        cases h
        exact absurd (hu.mpr hr) hv

theorem validEntry_none_iff (s : State) (k : Nat) : validEntry s k = none ↔ ∀ e, ¬ schemaValid s k e := by
  constructor
  · intro h e he
    rw [(validEntry_some_iff s k e).mpr he] at h
    cases h
  · intro h
    cases hv : validEntry s k with
    | none => rfl
    | some e => exact absurd ((validEntry_some_iff s k e).mp hv) (h e)

theorem wordAt_setWord (e : SchemaEntry) (w j : Nat) (v : Word64) :
    wordAt (setWord e w v) j = if j = w ∧ w < 18 then v else wordAt e j := by
  simp only [wordAt, setWord, List.getD_eq_getElem?_getD, Vector.getElem?_toList]
  rw [Vector.getElem?_setIfInBounds]
  by_cases h : w = j
  · subst h
    by_cases hw : w < 18
    · simp [hw]
    · simp [hw]
  · rw [if_neg h, if_neg (fun hh => h hh.1.symm)]

theorem addrMatch_iff (e : SchemaEntry) (f : RawFrame) : addrMatch e f = true ↔ addressFits e f := by
  unfold addrMatch addressFits
  cases entryAddressed e <;> simp

theorem fieldViolated_iff (e : SchemaEntry) (data : Vector Byte 8) (i : Nat) :
    fieldViolated e data i = true ↔ filterFails e data i := by
  simp [fieldViolated, filterFails, fieldRequired]

theorem firstViolation_none_iff (e : SchemaEntry) (data : Vector Byte 8) :
    firstViolation e data = none ↔ ∀ i, i < entryFields e → ¬ filterFails e data i := by
  simp only [firstViolation, List.find?_eq_none, List.mem_range, fieldViolated_iff]

theorem firstViolation_some_iff (e : SchemaEntry) (data : Vector Byte 8) (i : Nat) :
    firstViolation e data = some i ↔
      i < entryFields e ∧ filterFails e data i ∧ ∀ j, j < i → ¬ filterFails e data j := by
  simp only [firstViolation]
  rw [List.find?_range_eq_some]
  simp only [fieldViolated_iff, List.mem_range, Bool.not_eq_true']
  constructor
  · rintro ⟨h1, h2, h3⟩
    exact ⟨h2, h1, fun j hj hf => by
      have := h3 j hj
      rw [(fieldViolated_iff e data j).mpr hf] at this
      cases this⟩
  · rintro ⟨h1, h2, h3⟩
    refine ⟨h2, h1, fun j hj => ?_⟩
    cases hb : fieldViolated e data j with
    | false => rfl
    | true => exact absurd ((fieldViolated_iff e data j).mp hb) (h3 j hj)

/-! ## Slots -/

theorem receivesFrom_iff (who : Byte) (v : Slot) : receivesFrom who v = true ↔ ∃ r, v = .receiving r ∧ r.sender = who := by
  cases v with
  | idle => simp [receivesFrom]
  | receiving r => simp [receivesFrom]

theorem slotOfSender_none_iff (s : State) (who : Byte) : slotOfSender s who = none ↔ noneReceivingFrom who s := by
  unfold slotOfSender noneReceivingFrom
  rw [List.findIdx?_eq_none_iff]
  constructor
  · intro h r hr hs
    have := h _ hr
    rw [(receivesFrom_iff who _).mpr ⟨r, rfl, hs⟩] at this
    cases this
  · intro h v hv
    cases hb : receivesFrom who v with
    | false => rfl
    | true =>
      obtain ⟨r, rfl, hs⟩ := (receivesFrom_iff who v).mp hb
      exact absurd hs (h r hv)

/-- The slot a sender has holds a reassembly of that sender. -/
theorem slotOfSender_some {s : State} {who : Byte} {k : Nat} (h : slotOfSender s who = some k) :
    ∃ r, s.slots[k]? = some (Slot.receiving r) ∧ r.sender = who := by
  unfold slotOfSender at h
  obtain ⟨hk, hp, -⟩ := List.findIdx?_eq_some_iff_getElem.mp h
  obtain ⟨r, hr, hs⟩ := (receivesFrom_iff who _).mp hp
  exact ⟨r, by rw [List.getElem?_eq_getElem hk, hr], hs⟩

/-- In a legal PER_PEER state a slot that receives from a sender is the sender's slot (10_state.md R37). -/
theorem slotOfSender_eq {s : State} {who : Byte} {k : Nat} {r : Reassembly} (hl : slotsLegal s) (hp : perPeer s = true)
    (hk : s.slots[k]? = some (Slot.receiving r)) (hs : r.sender = who) : slotOfSender s who = some k := by
  cases h : slotOfSender s who with
  | none =>
    exact absurd hs ((slotOfSender_none_iff s who).mp h r (List.mem_of_getElem? hk))
  | some j =>
    obtain ⟨q, hq, hqs⟩ := slotOfSender_some h
    rw [hl.2.2 hp j k q r hq hk (hqs.trans hs.symm)]

theorem leastIdle_none_iff (s : State) : leastIdle s = none ↔ Slot.idle ∉ s.slots := by
  unfold leastIdle
  rw [List.findIdx?_eq_none_iff]
  constructor
  · intro h hm
    simpa [isReceiving] using h _ hm
  · intro h v hv
    cases v with
    | idle => exact absurd hv h
    | receiving r => rfl

theorem leastIdle_some_iff (s : State) (k : Nat) :
    leastIdle s = some k ↔ s.slots[k]? = some Slot.idle ∧ ∀ j, j < k → s.slots[j]? ≠ some Slot.idle := by
  unfold leastIdle
  rw [List.findIdx?_eq_some_iff_getElem]
  constructor
  · rintro ⟨hk, hp, hj⟩
    refine ⟨?_, fun j hjk hji => ?_⟩
    · rw [List.getElem?_eq_getElem hk]
      cases hv : s.slots[k] with
      | idle => rfl
      | receiving r => simp [hv, isReceiving] at hp
    · have := hj j hjk
      rw [List.getElem?_eq_getElem (by omega)] at hji
      simp_all [isReceiving]
  · rintro ⟨hk, hj⟩
    obtain ⟨hlt, hv⟩ := List.getElem?_eq_some_iff.mp hk
    refine ⟨hlt, by simp [hv, isReceiving], fun j hjk => ?_⟩
    have := hj j hjk
    rw [List.getElem?_eq_getElem (by omega)] at this
    cases hw : s.slots[j] with
    | idle => simp [hw] at this
    | receiving r => simp [isReceiving]

theorem slotAt_of_getElem? {s : State} {k : Nat} {v : Slot} (h : s.slots[k]? = some v) : slotAt s k = v := by
  simp [slotAt, h]

/-- A slot that reads as RECEIVING is there. -/
theorem getElem?_of_slotAt {s : State} {k : Nat} {r : Reassembly} (h : slotAt s k = .receiving r) :
    s.slots[k]? = some (Slot.receiving r) := by
  unfold slotAt at h
  rw [List.getD_eq_getElem?_getD] at h
  cases hk : s.slots[k]? with
  | none => simp [hk] at h
  | some v => simpa [hk] using h

/-- `SelectSlotFF` gives the slot R170 describes. -/
theorem selectSlotFf_of_ffSlot {s : State} {who : Byte} {k : Nat} (hl : slotsLegal s) (h : ffSlot who s k) :
    selectSlotFf who s = some k := by
  unfold selectSlotFf
  cases hp : perPeer s with
  | false => simp [(h.1 hp).1]
  | true =>
    obtain ⟨r, hr, hs⟩ | ⟨hn, hi⟩ := h.2 hp
    · simp [slotOfSender_eq hl hp hr hs]
    · simp [(slotOfSender_none_iff s who).mpr hn, (leastIdle_some_iff s k).mpr hi]

/-- Where `SelectSlotFF` answers, the slot is slot 0 (SINGLE), one that receives from the sender, or an IDLE one. -/
theorem selectSlotFf_cases {s : State} {who : Byte} {k : Nat} (h : selectSlotFf who s = some k) :
    (perPeer s = false ∧ k = 0) ∨
    (perPeer s = true ∧ ∃ r, s.slots[k]? = some (Slot.receiving r) ∧ r.sender = who) ∨
    (perPeer s = true ∧ noneReceivingFrom who s ∧ s.slots[k]? = some Slot.idle) := by
  unfold selectSlotFf at h
  cases hp : perPeer s with
  | false => left; simpa [hp] using h.symm
  | true =>
    rw [hp] at h
    simp only [Bool.not_true, Bool.false_eq_true, if_false] at h
    split at h
    · rename_i j hj
      cases h
      exact .inr (.inl ⟨rfl, slotOfSender_some hj⟩)
    · rename_i hj
      exact .inr (.inr ⟨rfl, (slotOfSender_none_iff s who).mp hj, ((leastIdle_some_iff s k).mp h).1⟩)

/-! ## The handlers: everything each can do -/

/-- RxFF: no slot; delivered at once; or a reassembly started. -/
theorem rxFf_cases (who : Byte) (len : Length12) (chunk : List Byte) (s : State) :
    (selectSlotFf who s = none ∧ rxFf who len chunk s = raise s .noSlot (.sender who)) ∨
    (∃ k, selectSlotFf who s = some k ∧ len.toNat ≤ chunk.length ∧
      rxFf who len chunk s = finish (setSlot s k .idle) [.rxPayload who chunk] (ffStatus s k).1 (ffStatus s k).2) ∨
    (∃ k, selectSlotFf who s = some k ∧ chunk.length < len.toNat ∧
      rxFf who len chunk s = finish (setSlot s k (.receiving (startReassembly who len chunk))) [.txFrame (fcFrame s who)]
        (ffStatus s k).1 (ffStatus s k).2) := by
  unfold rxFf
  split
  · rename_i h
    exact .inl ⟨h, rfl⟩
  · rename_i k h
    split
    · exact .inr (.inl ⟨k, h, by omega, rfl⟩)
    · exact .inr (.inr ⟨k, h, by omega, rfl⟩)

/-- What an FF's ending can be. -/
theorem ffStatus_cases (s : State) (k : Nat) :
    ffStatus s k = (.ok, .empty) ∨ ∃ r, slotAt s k = .receiving r ∧ ffStatus s k = (.okSuperseded, .oldSender r.sender) := by
  unfold ffStatus
  split
  · exact .inl rfl
  · rename_i r h
    exact .inr ⟨r, h, rfl⟩

/-- A CF into a slot: a sequence violation, the last chunk, or one more chunk. -/
theorem cfIntoSlot_cases (who : Byte) (sn : Nibble) (b : Vector Byte 6) (k : Nat) (r : Reassembly) (s : State) :
    (sn ≠ r.nsn ∧ cfIntoSlot who sn b k r s =
      raise (setSlot s k .idle) .protocolViolationSequence (.sequence who r.nsn sn)) ∨
    (sn = r.nsn ∧ (appendCf r b).out = 0 ∧ cfIntoSlot who sn b k r s =
      done (setSlot s k .idle) [.rxPayload who (appendCf r b).buf]) ∨
    (sn = r.nsn ∧ (appendCf r b).out ≠ 0 ∧ cfIntoSlot who sn b k r s =
      done (setSlot s k (.receiving (appendCf r b))) []) := by
  unfold cfIntoSlot
  split
  · rename_i h
    exact .inl ⟨h, rfl⟩
  · rename_i h
    split
    · rename_i h'
      exact .inr (.inl ⟨by simpa using h, h', rfl⟩)
    · rename_i h'
      exact .inr (.inr ⟨by simpa using h, h', rfl⟩)

/-- RxCF: nothing expected; the wrong sender (SINGLE); or into the slot it continues, in PER_PEER mode the sender's. -/
theorem rxCf_cases (who : Byte) (sn : Nibble) (b : Vector Byte 6) (s : State) :
    (rxCf who sn b s = raise s .unexpectedCf (.sender who)) ∨
    (∃ r, perPeer s = false ∧ s.slots[0]? = some (Slot.receiving r) ∧ r.sender ≠ who ∧
      rxCf who sn b s = raise (setSlot s 0 .idle) .protocolViolationSender (.senders r.sender who)) ∨
    (∃ k r, cfSlot who s k r ∧ (perPeer s = true → slotOfSender s who = some k) ∧
      rxCf who sn b s = cfIntoSlot who sn b k r s) := by
  unfold rxCf
  split
  · rename_i hp
    split
    · exact .inl rfl
    · rename_i r h
      split
      · rename_i hs
        exact .inr (.inl ⟨r, by simpa using hp, getElem?_of_slotAt h, hs, rfl⟩)
      · rename_i hs
        exact .inr (.inr ⟨0, r, ⟨getElem?_of_slotAt h, by simpa using hs, fun _ => rfl⟩, fun h' => by simp [h'] at hp, rfl⟩)
  · rename_i hp
    split
    · exact .inl rfl
    · rename_i k h
      obtain ⟨r, hr, hs⟩ := slotOfSender_some h
      rw [slotAt_of_getElem? hr]
      exact .inr (.inr ⟨k, r, ⟨hr, hs, fun h' => by simp [h'] at hp⟩, fun _ => h, rfl⟩)

/-- RxCF on the slot a CF continues. -/
theorem rxCf_of_cfSlot {s : State} {who : Byte} {k : Nat} {r : Reassembly} (sn : Nibble) (b : Vector Byte 6)
    (hl : slotsLegal s) (h : cfSlot who s k r) : rxCf who sn b s = cfIntoSlot who sn b k r s := by
  obtain ⟨hk, hs, h0⟩ := h
  unfold rxCf
  cases hp : perPeer s with
  | false =>
    have := h0 hp
    subst this
    simp [slotAt_of_getElem? hk, hs]
  | true => simp [slotOfSender_eq hl hp hk hs, slotAt_of_getElem? hk]

/-- RxFC: a bad status; nothing to drain for this peer; a drain; a wait; an abort. -/
theorem rxFc_cases (who : Byte) (fs : Nibble) (s : State) :
    (strict s = true ∧ 2 < fs.toNat ∧ rxFc who fs s = raise s .invalidFcStatus (.flowStatus fs)) ∨
    (rxFc who fs s = raise s .unexpectedFc (.sender who)) ∨
    (∃ rem sn, s.tx = .pending who rem sn ∧ (strict s = false ∨ fs = 0) ∧ rxFc who fs s = drain s who rem sn) ∨
    (∃ rem sn, s.tx = .pending who rem sn ∧ strict s = true ∧ fs = 1 ∧ rxFc who fs s = finish s [] .ok .wait) ∨
    (∃ rem sn, s.tx = .pending who rem sn ∧ strict s = true ∧
      rxFc who fs s = finish (setTx s .none) [] .txAborted (.recipient who)) := by
  unfold rxFc
  split
  · rename_i h
    exact .inl ⟨h.1, h.2, rfl⟩
  · split
    · exact .inr (.inl rfl)
    · rename_i r rem sn ht
      split
      · exact .inr (.inl rfl)
      · rename_i hr
        have hr : r = who := by simpa using hr
        subst hr
        split
        · rename_i h
          exact .inr (.inr (.inl ⟨rem, sn, ht, by simpa using h, rfl⟩))
        · rename_i h
          have hs : strict s = true := by
            cases hs : strict s <;> simp_all
          split
          · rename_i h1
            exact .inr (.inr (.inr (.inl ⟨rem, sn, ht, hs, h1, rfl⟩)))
          · exact .inr (.inr (.inr (.inr ⟨rem, sn, ht, hs, rfl⟩)))

/-! ## Draining -/

@[simp] theorem drainFrames_nil (s : State) (r : Byte) (fuel : Nat) (sn : Nibble) : drainFrames s r fuel [] sn = [] := by
  cases fuel <;> rfl

theorem drainFrames_cons (s : State) (r : Byte) (fuel : Nat) (rem : List Byte) (sn : Nibble) (h : rem ≠ []) :
    drainFrames s r (fuel + 1) rem sn =
      cfFrame s r sn (rem.take 6) :: drainFrames s r fuel (rem.drop 6) (sn + 1) := by
  simp [drainFrames, h]

/-- More fuel than bytes changes nothing. -/
theorem drainFrames_fuel (s : State) (r : Byte) (fuel : Nat) (rem : List Byte) (sn : Nibble) (h : rem.length ≤ fuel) :
    drainFrames s r fuel rem sn = drainFrames s r rem.length rem sn := by
  induction fuel using Nat.strongRecOn generalizing rem sn with
  | _ fuel ih =>
    by_cases hr : rem = []
    · simp [hr]
    · have hpos : 0 < rem.length := List.length_pos_iff.mpr hr
      obtain ⟨f, rfl⟩ : ∃ f, fuel = f + 1 := ⟨fuel - 1, by omega⟩
      obtain ⟨n, hn⟩ : ∃ n, rem.length = n + 1 := ⟨rem.length - 1, by omega⟩
      rw [hn, drainFrames_cons _ _ _ _ _ hr, drainFrames_cons _ _ _ _ _ hr]
      have hd : (rem.drop 6).length ≤ n := by simp; omega
      rw [ih f (by omega) (rem.drop 6) (sn + 1) (by simp; omega)]
      by_cases hnf : n = f
      · rw [hnf, ih f (by omega) (rem.drop 6) (sn + 1) (by simp; omega)]
      · rw [ih n (by omega) (rem.drop 6) (sn + 1) hd]

/-! ## Runs -/

@[simp] theorem runAll_nil (s : State) : runAll [] s = some s := rfl

/-- One more instruction of a run, when the first answers a next state. -/
theorem runAll_cons {i : Instr} {is : List Instr} {s t : State} (h : exec i s = .next t) : runAll (i :: is) s = runAll is t := by
  simp [runAll, h]

/-- Two runs, one after the other. -/
theorem runAll_append (is js : List Instr) (s : State) :
    runAll (is ++ js) s = (runAll is s).bind (runAll js) := by
  induction is generalizing s with
  | nil => rfl
  | cons i is ih =>
    simp only [List.cons_append, runAll]
    split
    · exact ih _
    · rfl
    · rfl

end Sys2Proof.Machine
end

