-- ==== Sys2Proof/Laws/PerInstr.lean ====
section
/-! SUPPORT. Per instruction: a command's length is its header and the operand block its opcode fixes (30_encoding.md R81, R85). -/

namespace Sys2Proof.Laws.CommandLength

/-- The bytes of the operand block (R85). -/
def operandSize (i : Instr) : Nat :=
  match i with
  | .codecDecode _ _ => 16
  | .codecEncode _ _ _ _ => 65
  | .codecClassify _ _ _ => 16
  | .tpRx _ => 16
  | .tpSend _ p => 2 + p.length
  | .tpClassify _ => 16
  | .tpDiscard _ _ => 0
  | .cfgWrite _ _ => 4
  | .cfgRead _ => 0
  | .schWrite _ _ _ => 8
  | .schRead _ _ => 0
  | .isotpSf _ _ _ => 0
  | .isotpFf _ _ _ => 0
  | .isotpCf _ _ _ => 0
  | .isotpFc _ _ _ _ _ => 0

/-- A command has four header bytes and its operand block. -/
def Statement (i : Instr) : Prop := ∀ bs, encode i = some bs → bs.length = 4 + operandSize i

theorem bytes32_length (w : Word32) : (bytes32 w).length = 4 := rfl

theorem bytes64_length (w : Word64) : (bytes64 w).length = 8 := rfl

theorem encodeFrameOperand_length (f : RawFrame) : (encodeFrameOperand f).length = 16 := by
  simp [encodeFrameOperand, bytes32_length]

theorem codecDecode (k : Byte) (f : RawFrame) : Statement (.codecDecode k f) := by
  intro bs h
  cases h
  simp [operandSize, bytes32_length, encodeFrameOperand_length]

theorem codecEncode (k sender m : Byte) (v : Vector Word64 8) : Statement (.codecEncode k sender m v) := by
  intro bs h
  cases h
  simp [operandSize, bytes32_length, List.length_flatMap, bytes64_length]

theorem codecClassify (k n : Byte) (f : RawFrame) : Statement (.codecClassify k n f) := by
  intro bs h
  cases h
  simp [operandSize, bytes32_length, encodeFrameOperand_length]

theorem tpRx (f : RawFrame) : Statement (.tpRx f) := by
  intro bs h
  cases h
  simp [operandSize, bytes32_length, encodeFrameOperand_length]

theorem tpSend (r : Byte) (p : List Byte) : Statement (.tpSend r p) := by
  intro bs h
  cases h
  simp [operandSize, bytes32_length, bytes16]
  omega

theorem tpClassify (f : RawFrame) : Statement (.tpClassify f) := by
  intro bs h
  cases h
  simp [operandSize, bytes32_length, encodeFrameOperand_length]

theorem tpDiscard (who : Byte) (all : Bool) : Statement (.tpDiscard who all) := by
  intro bs h
  cases h
  rfl

theorem cfgWrite (n : Byte) (v : Word32) : Statement (.cfgWrite n v) := by
  intro bs h
  cases h
  rfl

theorem cfgRead (n : Byte) : Statement (.cfgRead n) := by
  intro bs h
  cases h
  rfl

theorem schWrite (k w : Byte) (v : Word64) : Statement (.schWrite k w v) := by
  intro bs h
  cases h
  rfl

theorem schRead (k w : Byte) : Statement (.schRead k w) := by
  intro bs h
  cases h
  rfl

theorem isotpSf (sender : Byte) (dl : Nibble) (b : Vector Byte 6) : Statement (.isotpSf sender dl b) := by
  intro bs h
  cases h

theorem isotpFf (sender : Byte) (len : Length12) (b : Vector Byte 5) : Statement (.isotpFf sender len b) := by
  intro bs h
  cases h

theorem isotpCf (sender : Byte) (sn : Nibble) (b : Vector Byte 6) : Statement (.isotpCf sender sn b) := by
  intro bs h
  cases h

theorem isotpFc (sender : Byte) (fs : Nibble) (bs st : Byte) (padding : Vector Byte 4) :
    Statement (.isotpFc sender fs bs st padding) := by
  intro l h
  cases h

end Sys2Proof.Laws.CommandLength
end

