-- ==== Sys2Proof/Machine/Assembler.lean ====
section
/-! DEFINITION. The assembler text of a command (30_encoding.md R91), as a printer. R91 leaves spacing, comments and number spelling
to the writer; this prints one spelling (log 11). A command for which R91 and R92 have no text gets one that leaves something out
(DESIGN CHOICE, log 12, safe). -/

namespace Sys2Proof.Machine

/-- One hexadecimal digit. -/
def hexDigit (n : Nat) : Char := "0123456789abcdef".toList.getD n '0'

/-- `count` hexadecimal digits of `n`, most significant first. -/
def hexDigits (count n : Nat) : List Char :=
  match count with
  | 0 => []
  | count + 1 => hexDigits count (n / 16) ++ [hexDigit (n % 16)]

/-- The number of hexadecimal digits of `n`, at least one, at most `fuel` + 1. -/
def hexLength (fuel n : Nat) : Nat :=
  match fuel with
  | 0 => 1
  | fuel + 1 => if n < 16 then 1 else hexLength fuel (n / 16) + 1

/-- A number as `0x…` without leading zeros. -/
def hexText (n : Nat) : List Char := '0' :: 'x' :: hexDigits (hexLength 16 n) n

/-- `count` decimal digits of `n`, most significant first. -/
def decDigits (count n : Nat) : List Char :=
  match count with
  | 0 => []
  | count + 1 => decDigits count (n / 10) ++ [hexDigit (n % 10)]

/-- A number below 1000 in decimal. -/
def decText (n : Nat) : List Char := decDigits (if n < 10 then 1 else if n < 100 then 2 else 3) n

/-- Bytes as two digits each, a space between. -/
def bytesText (l : List Byte) : List Char := (l.map (fun b => hexDigits 2 b.toNat)).intersperse [' '] |>.flatten

/-- `<frame>`: the space, the identifier, the dlc and the dlc data bytes. A FRAME operand with dlc 9..15 has only 8 data bytes, and R91 has no
text for it: the dlc and the 8 bytes are printed (DESIGN CHOICE, log 12, safe). Bytes past the dlc are not part of the frame (00_scope.md R12)
and are not printed. -/
def frameText (f : RawFrame) : List Char :=
  (if f.ext then "ext:" else "std:").toList ++ hexText f.id.toNat ++ ['#'] ++ decText f.dlc.toNat ++ ['[']
    ++ bytesText (f.data.toList.take f.dlc.toNat) ++ [']']

/-- A schema: `s<k>`. -/
def schemaText (k : Byte) : List Char := 's' :: decText k.toNat

/-- A schema word's name: W0, IDW, FD0..FD7, FV0..FV7. R91 names no word above 17: its number is printed (DESIGN CHOICE, log 12, safe). -/
def wordText (w : Byte) : List Char :=
  if w.toNat = 0 then "W0".toList
  else if w.toNat = 1 then "IDW".toList
  else if w.toNat ≤ 9 then "FD".toList ++ decText (w.toNat - 2)
  else if w.toNat ≤ 17 then "FV".toList ++ decText (w.toNat - 10)
  else decText w.toNat

/-- The overrides of CODEC_ENCODE: `<i>: <value>` for each bit of M that is set. R91 has no text for a `V[i]` whose bit of M is clear (it
overrides nothing): it is not printed (DESIGN CHOICE, log 12, safe). -/
def overridesText (m : Byte) (v : Vector Word64 8) : List Char :=
  (((List.range 8).filter (fun i => m.getLsbD i)).map
    (fun i => decText i ++ ": ".toList ++ hexText (v.toList.getD i 0).toNat)).intersperse ", ".toList |>.flatten

/-- The text of a command; a frame kind has none. Characters 123 and 125 are the braces of the override list. R92's `TP_DISCARD ALL` has
A = 0; R91 and R92 have no text for TP_DISCARD with B = 1 and another A, which the command ignores (41_framer_rx.md R189): it is printed as
`TP_DISCARD ALL` too, without its A (DESIGN CHOICE, log 12, safe). -/
def asmText (i : Instr) : Option (List Char) :=
  match i with
  | .codecDecode k f => some ("CODEC_DECODE ".toList ++ schemaText k ++ ", ".toList ++ frameText f)
  | .codecEncode k sender m v =>
    some ("CODEC_ENCODE ".toList ++ schemaText k ++ ", sender=".toList ++ hexText sender.toNat ++ ", ".toList
      ++ [Char.ofNat 123] ++ overridesText m v ++ [Char.ofNat 125])
  | .codecClassify k n f =>
    some ("CODEC_CLASSIFY ".toList ++ schemaText k ++ ", n=".toList ++ decText n.toNat ++ ", ".toList ++ frameText f)
  | .tpRx f => some ("TP_RX ".toList ++ frameText f)
  | .tpSend r p => some ("TP_SEND ".toList ++ hexText r.toNat ++ ", [".toList ++ bytesText p ++ [']'])
  | .tpClassify f => some ("TP_CLASSIFY ".toList ++ frameText f)
  | .tpDiscard who all => some ("TP_DISCARD ".toList ++ (if all then "ALL".toList else hexText who.toNat))
  | .cfgWrite n v => some ("CFG_WRITE r".toList ++ decText n.toNat ++ ", ".toList ++ hexText v.toNat)
  | .cfgRead n => some ("CFG_READ r".toList ++ decText n.toNat)
  | .schWrite k w v =>
    some ("SCH_WRITE ".toList ++ schemaText k ++ ['.'] ++ wordText w ++ ", ".toList ++ hexText v.toNat)
  | .schRead k w => some ("SCH_READ ".toList ++ schemaText k ++ ['.'] ++ wordText w)
  | .isotpSf _ _ _ => none
  | .isotpFf _ _ _ => none
  | .isotpCf _ _ _ => none
  | .isotpFc _ _ _ _ _ => none

end Sys2Proof.Machine
end

