-- ==== Sys2Proof/Tests/Slice0.lean ====
section
/-! SUPPORT. Tests of the model on fixed values (expected results from 95_test_vectors.md or the rule named), and a witness for the
hypotheses of each statement that has some, at the edges of their ranges. -/

namespace Sys2Proof.Tests

open Sys2Proof Sys2Proof.Machine

/-! ## States and frames (95_test_vectors.md section 0) -/

/-- E40. -/
def e40 : State := { State.reset with cfg0 := 0x00004003 }
/-- E40 in SINGLE mode. -/
def e40Single : State := { State.reset with cfg0 := 0x00004001 }
/-- E12. -/
def e12 : State := { State.reset with cfg0 := 0x00001203 }
/-- E12S. -/
def e12s : State := { State.reset with cfg0 := 0x00001207 }

/-- A standard 8-byte frame. -/
def std8 (id : CanId) (d : Vector Byte 8) : RawFrame := ⟨id, false, 8, d⟩

/-- The reassembly of V-RX-5. -/
def reass5 : Reassembly := ⟨0x12, 14, [0x2c, 0x10, 0x03, 0x85, 0x04], 9, 1⟩
/-- The reassembly of V-RX-11. -/
def reass11 : Reassembly := ⟨0x12, 14, [0x2c, 0x10, 0x03, 0x85, 0x04, 0x1b, 0x07, 0x6f, 0x06, 0x6d, 0x0a], 3, 2⟩
/-- E40 after V-RX-5. -/
def rx5 : State := { e40 with slots := [.receiving reass5, .idle, .idle, .idle] }
/-- E40 after V-RX-11. -/
def rx11 : State := { e40 with slots := [.receiving reass11, .idle, .idle, .idle] }
/-- SINGLE mode after V-RX-5. -/
def rx5Single : State := { e40Single with slots := [.receiving reass5, .idle, .idle, .idle] }
/-- A block with one slot, busy. -/
def rxFull : State := { e40 with slots := [.receiving reass5] }

/-- The rest of the 14-byte payload after its first frame. -/
def rest9 : List Byte := [0x1b, 0x07, 0x6f, 0x06, 0x6d, 0x0a, 0x8d, 0x10, 0x06]
/-- E12 after V-TX-5. -/
def tx5 : State := { e12 with tx := .pending 0xf1 rest9 1 }
/-- E12S after V-TX-5. -/
def tx5s : State := { e12s with tx := .pending 0xf1 rest9 1 }

/-- s0, the sign-on schema (40_codec.md R139). -/
def signOn : SchemaEntry := ⟨#v[0x23, 0x1ffffff0, 1, 4, 1, 2, 0, 0, 0, 0, 0, 0, 0, 0, 0, 0, 0, 0]⟩
/-- s1, the ISO-TP frame (R139). -/
def isotp : SchemaEntry := ⟨#v[0x1D, 0x600, 1, 1, 6, 0, 0, 0, 0, 0, 0, 0, 0, 0, 0, 0, 0, 0]⟩
/-- s2, the little-endian test schema. -/
def leTest : SchemaEntry := ⟨#v[0x11, 0x100, 0x12, 0x32, 0, 0, 0, 0, 0, 0, 0, 0, 0, 0, 0, 0, 0, 0]⟩
/-- s4, the echo filter. -/
def echo : SchemaEntry := ⟨#v[0x1D, 0x600, 0x41, 0x41, 0x41, 0, 0, 0, 0, 0, 0x62, 0x10, 0x10, 0, 0, 0, 0, 0]⟩
/-- E40 with four schemas and one entry never written. -/
def coded : State := { e40 with sch := [signOn, isotp, leTest, echo, SchemaEntry.zero] }

/-- The events of one instruction. -/
def eventsOf (i : Instr) (s : State) : Option (List Event) :=
  match exec i s with
  | .next t => some (newEvents s t)
  | .fault _ => none
  | .refused _ => none

/-- The state after one instruction. -/
def afterInstr (i : Instr) (s : State) : Option State :=
  match exec i s with
  | .next t => some t
  | .fault _ => none
  | .refused _ => none

/-- The events of one step. -/
def stepEvents (s : State) : Option (List Event) :=
  match step s with
  | .next t => some (newEvents s t)
  | .fault _ => none
  | .refused _ => none

/-! ## WellFormed and decoding -/

/-- A payload of 65536 bytes does not fit LEN (R88). -/
theorem test_wf_refuses_long_payload : (Instr.tpSend 0 (List.replicate 65536 0)).wf = false := by
  show decide ((List.replicate 65536 (0 : Byte)).length < 65536) = false
  rw [List.length_replicate]
  decide

theorem test_wf_admits_send : (Instr.tpSend 0 [1, 2]).wf = true := by decide

/-- L3-P3 step 11. -/
theorem test_decode_codecDecode :
    decode [0x01, 0, 0, 0, 0xf0, 0xff, 0xff, 0x3f, 8, 0, 0, 0, 0x01, 0x12, 0x34, 0x56, 0x78, 0, 0x01, 0x02] =
      .instr (.codecDecode 0 ⟨0x1ffffff0, true, 8, #v[0x01, 0x12, 0x34, 0x56, 0x78, 0, 0x01, 0x02]⟩) := by decide

/-- L3-P3 step 13, with values in V0 and V1. -/
theorem test_decode_codecEncode :
    decode ([0x02, 0, 0, 0, 0x0b] ++ [0x01, 0, 0, 0, 0, 0, 0, 0] ++ [0x78, 0x56, 0x34, 0x12, 0, 0, 0, 0]
        ++ List.replicate 48 0) =
      .instr (.codecEncode 0 0 0x0b #v[1, 0x12345678, 0, 0, 0, 0, 0, 0]) := by decide

/-- A = 0, B = 2 (V-COD-24). -/
theorem test_decode_codecClassify :
    decode [0x03, 0, 2, 0, 0xf1, 0x06, 0, 0, 8, 0, 0, 0, 0x40, 0x02, 0x1a, 0x80, 0, 0, 0, 0] =
      .instr (.codecClassify 0 2 (std8 0x6f1 #v[0x40, 0x02, 0x1a, 0x80, 0, 0, 0, 0])) := by decide

/-- L3-P1 step 2. -/
theorem test_decode_tpRx :
    decode [0x10, 0, 0, 0, 0x12, 0x06, 0, 0, 8, 0, 0, 0, 0x40, 0x10, 0x0e, 0x2c, 0x10, 0x03, 0x85, 0x04] =
      .instr (.tpRx (std8 0x612 #v[0x40, 0x10, 0x0e, 0x2c, 0x10, 0x03, 0x85, 0x04])) := by decide

/-- L3-P2 step 2's header with a short payload. -/
theorem test_decode_tpSend : decode [0x11, 0x40, 0, 0, 3, 0, 0xaa, 0xbb, 0xcc] = .instr (.tpSend 0x40 [0xaa, 0xbb, 0xcc]) := by
  decide

/-- V-ENC-13: an extended identifier above 0x7FF. -/
theorem test_decode_tpClassify :
    decode [0x12, 0, 0, 0, 0x00, 0x08, 0, 0x20, 8, 0, 0, 0, 0, 0x01, 0xaa, 0, 0, 0, 0, 0] =
      .instr (.tpClassify ⟨0x800, true, 8, #v[0, 0x01, 0xaa, 0, 0, 0, 0, 0]⟩) := by decide

/-- L3-P4 step 7 and V-ENC-8. -/
theorem test_decode_tpDiscard :
    decode [0x13, 0x12, 0, 0] = .instr (.tpDiscard 0x12 false) ∧ decode [0x13, 0, 1, 0] = .instr (.tpDiscard 0 true) := by decide

/-- L3-P1 steps 1 and 3. -/
theorem test_decode_registers :
    decode [0x20, 0, 0, 0, 0x03, 0x40, 0, 0] = .instr (.cfgWrite 0 0x4003) ∧ decode [0x21, 3, 0, 0] = .instr (.cfgRead 3) := by
  decide

/-- L3-P3 step 10 (H = 0x000D0022) and an SCH_READ of the same word. -/
theorem test_decode_schemas :
    decode [0x22, 0, 0x0d, 0, 1, 0, 0, 0, 0, 0, 0, 0x80] = .instr (.schWrite 0 13 0x8000000000000001) ∧
    decode [0x23, 0, 0x0d, 0] = .instr (.schRead 0 13) := by decide

/-- R96-R99: one frame of each kind, and type 4. -/
theorem test_decodeFrame :
    decodeFrame 0x12 #v[0x40, 0x06, 1, 2, 3, 4, 5, 6] = some (.isotpSf 0x12 6 #v[1, 2, 3, 4, 5, 6]) ∧
    decodeFrame 0x12 #v[0x40, 0x1f, 0xfe, 1, 2, 3, 4, 5] = some (.isotpFf 0x12 0xffe #v[1, 2, 3, 4, 5]) ∧
    decodeFrame 0x12 #v[0x40, 0x2a, 1, 2, 3, 4, 5, 6] = some (.isotpCf 0x12 10 #v[1, 2, 3, 4, 5, 6]) ∧
    decodeFrame 0x12 #v[0x40, 0x3f, 5, 9, 1, 2, 3, 4] = some (.isotpFc 0x12 15 5 9 #v[1, 2, 3, 4]) ∧
    decodeFrame 0x12 #v[0x40, 0x40, 0, 0, 0, 0, 0, 0] = none := by decide

/-- V-ENC-1 to V-ENC-7, V-ENC-9, V-ENC-10: what is refused. -/
theorem test_decode_refuses :
    decode [0, 0, 0, 0] = .reject (.unknownOpcode 0) ∧ decode [4, 0, 0, 0] = .reject (.unknownOpcode 4) ∧
    decode [0xff, 0, 0, 0] = .reject (.unknownOpcode 0xff) ∧
    decode [0x10, 0, 0, 1] = .reject (.reservedHeader 0x10) ∧ decode [0x10, 1, 0, 0] = .reject (.reservedHeader 0x10) ∧
    decode [0x01, 0, 1, 0] = .reject (.reservedHeader 0x01) ∧ decode [0x13, 0, 2, 0] = .reject (.reservedHeader 0x13) ∧
    decode [0x10, 0, 0, 0, 0x12, 0x06, 0, 0x40, 8, 0, 0, 0, 0, 0, 0, 0, 0, 0, 0, 0] = .reject (.reservedOperand 0x10) ∧
    decode [0x10, 0, 0, 0, 0x12, 0x06, 0, 0, 0x18, 0, 0, 0, 0, 0, 0, 0, 0, 0, 0, 0] = .reject (.reservedOperand 0x10) := by
  decide

/-- The host's words for a command and a frame kind run as the next step after reset. -/
theorem test_withFetchWord :
    decodeTableWord 32 0x21 = some (.cfgRead 0) ∧
    stepEvents (State.reset.withFetchWord 32 0x21) = some [.result (.reg 2), .status .ok .empty] ∧
    decodeTableWord 8 0x02 = some (.isotpSf 0 2 #v[0, 0, 0, 0, 0, 0]) ∧
    stepEvents (State.reset.withFetchWord 8 0x02) = some [.rxPayload 0 [0, 0], .status .ok .empty] := by decide

/-- The text of R91's example. -/
theorem test_asm_tpRx :
    asmText (.tpRx (std8 0x6f1 #v[0x40, 0x10, 0x0e, 0x2c, 0x10, 0x03, 0x85, 0x04])) =
      some "TP_RX std:0x6f1#8[40 10 0e 2c 10 03 85 04]".toList := by decide

/-! ## One instruction at a time -/

/-- V-COD-1. -/
theorem test_codecDecode_signOn :
    eventsOf (.codecDecode 0 ⟨0x1ffffff0, true, 8, #v[0x01, 0x12, 0x34, 0x56, 0x78, 0, 0x01, 0x02]⟩) coded =
      some [.result (.fields 0 4 [0x01, 0x12345678, 0x00, 0x0102] 0), .status .ok .empty] := by decide

/-- V-COD-6: little-endian, unsigned and signed. -/
theorem test_codecDecode_littleEndian :
    eventsOf (.codecDecode 2 ⟨0x100, false, 4, #v[0x34, 0x12, 0xfe, 0xff, 0, 0, 0, 0]⟩) coded =
      some [.result (.fields 2 2 [0x1234, 0xFFFFFFFFFFFFFFFE] 0), .status .ok .empty] := by decide

/-- V-COD-20: truncation, B ignored for FIXED. -/
theorem test_codecEncode_truncates :
    eventsOf (.codecEncode 2 0x55 3 #v[0x12345, 0xFFFFFFFFFFFFFFFF, 0, 0, 0, 0, 0, 0]) coded =
      some [.result (.frame ⟨0x100, false, 4, #v[0x45, 0x23, 0xff, 0xff, 0, 0, 0, 0]⟩), .status .ok .empty] := by decide

/-- V-COD-22: addressed identifier; M bits above NFIELDS ignored. -/
theorem test_codecEncode_addressed :
    eventsOf (.codecEncode 1 0x40 0xff #v[0xf1, 0x10, 0x025a80000000, 0, 0, 0, 0, 0]) coded =
      some [.result (.frame (std8 0x640 #v[0xf1, 0x10, 0x02, 0x5a, 0x80, 0, 0, 0])), .status .ok .empty] := by decide

/-- V-COD-24. -/
theorem test_codecClassify_second :
    eventsOf (.codecClassify 0 2 (std8 0x6f1 #v[0x40, 0x02, 0x1a, 0x80, 0, 0, 0, 0])) coded =
      some [.result (.fields 1 3 [0x40, 0x02, 0x1a8000000000] 0xf1), .status .ok .empty] := by decide

/-- V-COD-28: an invalid schema later in the range is reported before any match. -/
theorem test_codecClassify_badSchema :
    eventsOf (.codecClassify 3 2 ⟨0x640, false, 3, #v[0x62, 0x10, 0x10, 0, 0, 0, 0, 0]⟩) coded =
      some [.status .badSchema (.index 4)] := by decide

/-- V-RX-17: a second peer takes the next slot. -/
theorem test_tpRx_secondPeer :
    (afterInstr (.tpRx (std8 0x6f1 #v[0x40, 0x10, 0x0e, 1, 2, 3, 4, 5])) rx5).map (fun t => t.slots) =
      some [.receiving reass5, .receiving ⟨0xf1, 14, [1, 2, 3, 4, 5], 9, 1⟩, .idle, .idle] := by decide

/-- V-RX-28: identifier before dlc. -/
theorem test_tpRx_idBeforeDlc :
    eventsOf (.tpRx ⟨0x712, false, 7, #v[0x40, 0, 0, 0, 0, 0, 0, 0]⟩) e40 =
      some [.status .notAddressed (.reasonId 0x712 false)] := by decide

/-- V-TX-5. -/
theorem test_tpSend_fourteen :
    eventsOf (.tpSend 0xf1 ([0x2c, 0x10, 0x03, 0x85, 0x04] ++ rest9)) e12 =
      some [.txFrame (std8 0x612 #v[0xf1, 0x10, 0x0e, 0x2c, 0x10, 0x03, 0x85, 0x04]), .status .ok .empty] := by decide

/-- V-TX-11: superseding. -/
theorem test_tpSend_supersedes :
    eventsOf (.tpSend 0x13 [0x01, 0x02]) tx5 =
      some [.txFrame (std8 0x612 #v[0x13, 0x02, 0x01, 0x02, 0, 0, 0, 0]), .status .okSuperseded (.oldRecipient 0xf1)] := by decide

/-- V-RX-32. -/
theorem test_tpClassify_ff :
    eventsOf (.tpClassify (std8 0x612 #v[0x40, 0x10, 0x0e, 0x2c, 0x10, 0x03, 0x85, 0x04])) State.reset =
      some [.result (.pci .ff 0x40 0x12 false 14 0 0 [0x2c, 0x10, 0x03, 0x85, 0x04]), .status .ok .empty] := by decide

/-- V-RX-34. -/
theorem test_tpClassify_fc :
    eventsOf (.tpClassify (std8 0x612 #v[0x40, 0x3f, 0x05, 0x09, 0, 0, 0, 0])) State.reset =
      some [.result (.pci .fc 0x40 0x12 false 15 5 9 []), .status .ok .empty] := by decide

/-- L3-P4 step 7, and a sender with no reassembly. -/
theorem test_tpDiscard_counts :
    eventsOf (.tpDiscard 0x12 false) rx5 = some [.status .ok (.discarded 1)] ∧
    eventsOf (.tpDiscard 0x13 false) rx5 = some [.status .ok (.discarded 0)] := by decide

/-- V-CFG-6, and the framer reset of V-CFG-13. -/
theorem test_cfgWrite_masks :
    (afterInstr (.cfgWrite 0 0xFFFFFFFF) rx5).map (fun t => (t.cfg0, t.slots)) =
      some (0x00FFFF07, [.idle, .idle, .idle, .idle]) := by decide

/-- V-CFG-9. -/
theorem test_cfgWrite_stat : eventsOf (.cfgWrite 3 0) e40 = some [.status .badRegister (.reg 3)] := by decide

/-- V-CFG-12 and L3-P1 step 3. -/
theorem test_cfgRead_stat :
    eventsOf (.cfgRead 3) tx5 = some [.result (.reg 1), .status .ok .empty] ∧
    eventsOf (.cfgRead 3) rx5 = some [.result (.reg 0x100), .status .ok .empty] := by decide

/-- V-CFG-5. -/
theorem test_cfgRead_params : eventsOf (.cfgRead 4) e40 = some [.result (.reg 0x00080004), .status .ok .empty] := by decide

/-- V-CFG-14 and V-CFG-16. -/
theorem test_schWrite_masks :
    ((afterInstr (.schWrite 0 0 0xFFFFFFFFFFFFFFFF) e40).bind (eventsOf (.schRead 0 0))) =
      some [.result (.word 0x7F), .status .ok .empty] ∧
    ((afterInstr (.schWrite 0 17 0xFFFFFFFFFFFFFFFF) e40).bind (eventsOf (.schRead 0 17))) =
      some [.result (.word 0xFFFFFFFFFFFFFFFF), .status .ok .empty] := by decide

/-- V-CFG-17 and V-CFG-18. -/
theorem test_schemas_refuse :
    eventsOf (.schWrite 0 18 0) e40 = some [.status .badRegister (.word 18)] ∧
    eventsOf (.schRead 8 0) e40 = some [.status .badSchema (.index 8)] := by decide

/-- V-RX-1 and V-RX-4. -/
theorem test_isotpSf :
    eventsOf (.isotpSf 0x12 3 #v[1, 2, 3, 0xaa, 0xaa, 0xaa]) e40 = some [.rxPayload 0x12 [1, 2, 3], .status .ok .empty] ∧
    eventsOf (.isotpSf 0x12 7 #v[1, 2, 3, 4, 5, 6]) e40 = some [.status .invalidSfLength (.length 7)] := by decide

/-- V-RX-5. -/
theorem test_isotpFf_starts :
    eventsOf (.isotpFf 0x12 14 #v[0x2c, 0x10, 0x03, 0x85, 0x04]) e40 =
      some [.txFrame (std8 0x640 #v[0x12, 0x30, 0, 1, 0, 0, 0, 0]), .status .ok .empty] ∧
    (afterInstr (.isotpFf 0x12 14 #v[0x2c, 0x10, 0x03, 0x85, 0x04]) e40).map (fun t => t.slots) = some rx5.slots := by decide

/-- V-RX-22: superseding in SINGLE mode. -/
theorem test_isotpFf_supersedes :
    eventsOf (.isotpFf 0xf1 14 #v[1, 2, 3, 4, 5]) rx5Single =
      some [.txFrame (std8 0x640 #v[0xf1, 0x30, 0, 1, 0, 0, 0, 0]), .status .okSuperseded (.oldSender 0x12)] := by decide

/-- V-RX-12. -/
theorem test_isotpCf_completes :
    eventsOf (.isotpCf 0x12 2 #v[0x8d, 0x10, 0x06, 0, 0, 0]) rx11 =
      some [.rxPayload 0x12 [0x2c, 0x10, 0x03, 0x85, 0x04, 0x1b, 0x07, 0x6f, 0x06, 0x6d, 0x0a, 0x8d, 0x10, 0x06],
        .status .ok .empty] := by decide

/-- V-L1-3: after SN 15 the next is 0. -/
theorem test_isotpCf_wraps :
    (afterInstr (.isotpCf 0x12 15 #v[1, 2, 3, 4, 5, 6])
      { e40 with slots := [.receiving ⟨0x12, 101, List.replicate 89 0, 12, 15⟩] }).map (fun t => t.slots) =
      some [.receiving ⟨0x12, 101, List.replicate 89 0 ++ [1, 2, 3, 4, 5, 6], 6, 0⟩] := by decide

/-- V-TX-6. -/
theorem test_isotpFc_drains :
    eventsOf (.isotpFc 0xf1 0 0 1 #v[0, 0, 0, 0]) tx5 =
      some [.txFrame (std8 0x612 #v[0xf1, 0x21, 0x1b, 0x07, 0x6f, 0x06, 0x6d, 0x0a]),
        .txFrame (std8 0x612 #v[0xf1, 0x22, 0x8d, 0x10, 0x06, 0, 0, 0]), .status .ok .empty] := by decide

/-- V-TX-19: the status is checked first. -/
theorem test_isotpFc_badStatus :
    eventsOf (.isotpFc 0xf1 5 0 0 #v[0, 0, 0, 0]) e12s = some [.status .invalidFcStatus (.flowStatus 5)] := by decide

/-- A reset event empties the framer and keeps the parameters (R290). -/
theorem test_step_reset :
    step { rx5 with input := [.reset], pos := 7 } = .next State.reset := by rfl

/-! ## Witnesses: hypotheses of the statements, clause by clause -/

/-- The frame of V-RX-5. -/
def ff14 : RawFrame := std8 0x612 #v[0x40, 0x10, 0x0e, 0x2c, 0x10, 0x03, 0x85, 0x04]
/-- The sign-on frame of V-COD-1. -/
def signOnFrame : RawFrame := ⟨0x1ffffff0, true, 8, #v[0x01, 0x12, 0x34, 0x56, 0x78, 0, 0x01, 0x02]⟩
/-- E40 with one command issued. -/
def issued (bytes : List Byte) : State := { e40 with input := [.command bytes] }

/-- A state whose slots are the given one and three IDLE ones is legal in its slots. -/
theorem slotsLegal_one {s : State} {r : Reassembly} (hs : s.slots = [.receiving r, .idle, .idle, .idle])
    (hr : reassemblyLegal r) : slotsLegal s := by
  have at0 : ∀ (k : Nat) (q : Reassembly), s.slots[k]? = some (Slot.receiving q) → k = 0 ∧ q = r := by
    intro k q h
    rw [hs] at h
    match k, h with
    | 0, h => exact ⟨rfl, by simpa using h.symm⟩
    | 1, h => simp at h
    | 2, h => simp at h
    | 3, h => simp at h
    | n + 4, h => simp at h
  refine ⟨fun k q h => by rw [(at0 k q h).2]; exact hr, fun _ k q h => (at0 k q h).1, fun _ j k p q hj hk _ => ?_⟩
  rw [(at0 j p hj).1, (at0 k q hk).1]

/-- A state with only IDLE slots is legal in its slots. -/
theorem slotsLegal_idle {s : State} (hs : s.slots = [.idle, .idle, .idle, .idle]) : slotsLegal s := by
  have none : ∀ (k : Nat) (q : Reassembly), s.slots[k]? ≠ some (Slot.receiving q) := by
    intro k q h
    have := List.mem_of_getElem? h
    simp [hs] at this
  exact ⟨fun k q h => absurd h (none k q), fun _ k q h => absurd h (none k q), fun _ j _ p _ h => absurd h (none j p)⟩

theorem reass5_legal : reassemblyLegal reass5 := by
  unfold reassemblyLegal
  decide

theorem reass11_legal : reassemblyLegal reass11 := by
  unfold reassemblyLegal
  decide

theorem rx5_slotsLegal : slotsLegal rx5 := slotsLegal_one rfl reass5_legal
theorem rx11_slotsLegal : slotsLegal rx11 := slotsLegal_one rfl reass11_legal
theorem rx5Single_slotsLegal : slotsLegal rx5Single := slotsLegal_one rfl reass5_legal
theorem e40_slotsLegal : slotsLegal e40 := slotsLegal_idle rfl
theorem e40Single_slotsLegal : slotsLegal e40Single := slotsLegal_idle rfl

/-- Every word of a fresh schema table is 0, so its reserved bits are. -/
theorem schemasLegal_zero {s : State} (h : s.sch = List.replicate 8 SchemaEntry.zero) : schemasLegal s := by
  intro e he w hw
  rw [h] at he
  rw [List.eq_of_mem_replicate he]
  have : ∀ w, w < 18 → wordAt SchemaEntry.zero w = 0 := by decide
  rw [this w hw]
  simp

theorem rx11_inv : Inv rx11 :=
  ⟨by unfold registersLegal; decide, schemasLegal_zero rfl, by unfold parametersLegal; decide, rx11_slotsLegal, trivial⟩

theorem tx5_inv : Inv tx5 :=
  ⟨by unfold registersLegal; decide, schemasLegal_zero rfl, by unfold parametersLegal; decide, slotsLegal_idle rfl,
    by show 2 ≤ _ ∧ _ ≤ 4090; decide⟩

theorem witness_DecodeOfEncodedCommand :
    (Instr.tpSend 0xf1 [0x5a, 0x80]).wf = true ∧
    encode (.tpSend 0xf1 [0x5a, 0x80]) = some [0x11, 0xf1, 0, 0, 2, 0, 0x5a, 0x80] := by decide

theorem witness_EncodeOfDecodedCommand : decode [0x13, 0xff, 1, 0] = .instr (.tpDiscard 0xff true) := by decide

theorem witness_FrameKindRoundTrip :
    decodeFrame 0 #v[0, 0x3f, 0, 0, 0, 0, 0, 0xff] = some (.isotpFc 0 15 0 0 #v[0, 0, 0, 0xff]) ∧
    encodeFrame 0x40 (.isotpFf 0x12 4095 #v[1, 2, 3, 4, 5]) = some #v[0x40, 0x1f, 0xff, 1, 2, 3, 4, 5] ∧
    decodeFrame 0 #v[0, 0x40, 0, 0, 0, 0, 0, 0] = none := by decide

/-- 0x24 spells no command; TP_DISCARD with B bit 1 set has a reserved field. -/
theorem witness_IllegalHeaderRefused :
    (issued (bytes32 0x00000024)).input = .command (bytes32 0x00000024 ++ []) :: [] ∧
    (0x00000024 : Word32).extractLsb' 0 8 ∉
      ([0x01, 0x02, 0x03, 0x10, 0x11, 0x12, 0x13, 0x20, 0x21, 0x22, 0x23] : List Byte) ∧
    (issued (bytes32 0x00020013)).input = .command (bytes32 0x00020013 ++ []) :: [] ∧
    (0x00020013 : Word32).extractLsb' 0 8 = 0x13 ∧ (0x00020013 : Word32) &&& 0xFFFE00FF ≠ 0x00000013 := by decide

theorem witness_ReservedOperandRefused :
    (issued (bytes32 0x10 ++ bytes32 0x40000612 ++ bytes32 8 ++ List.replicate 8 0)).input =
      .command (bytes32 0x10 ++ bytes32 0x40000612 ++ bytes32 8 ++ (Vector.replicate 8 (0 : Byte)).toList) :: [] ∧
    (0x10 : Word32) &&& 0xFFFFFFFF = 0x10 ∧ (0x40000612 : Word32).extractLsb' 30 2 ≠ 0 ∧
    (0x18 : Word32).extractLsb' 4 28 ≠ 0 := by decide

theorem witness_FrameOperandFields :
    (0x3fffffff : Word32).extractLsb' 30 2 = 0 ∧ (0xf : Word32).extractLsb' 4 28 = 0 := by decide

theorem witness_StepRunsDecodedInstr :
    (issued [0x21, 3, 0, 0]).input = .command [0x21, 3, 0, 0] :: [] ∧ decode [0x21, 3, 0, 0] = .instr (.cfgRead 3) ∧
    stepEvents (issued [0x21, 3, 0, 0]) = some [.result (.reg 0), .status .ok .empty] := by decide

theorem witness_StepStopsOutsideCommands :
    State.reset.input = [] ∧ (issued [0x21]).input = .command [0x21] :: [] ∧ decode [0x21] = .reject .shortHeader ∧
    decode [0x20, 0, 0, 0, 1] = .reject .shortOperand ∧ decode [0x21, 0, 0, 0, 1] = .reject .longOperand := by decide

theorem witness_StepOnResetEvent : ({ rx5 with input := [.reset] } : State).input = .reset :: [] := by decide

theorem witness_PositionAdvancesByOne :
    (issued [0, 0, 0, 0]).input = .command [0, 0, 0, 0] :: [] ∧
    step (issued [0, 0, 0, 0]) =
      .next { e40 with pos := 1, outs := [.status .illegalCommand (.opc 0)] } := ⟨by decide, by rfl⟩

theorem witness_AcceptedFrameRunsItsKind :
    acceptable ff14 e40 ∧ decodeFrame (ff14.id.extractLsb' 0 8) ff14.data = some (.isotpFf 0x12 14 #v[0x2c, 0x10, 0x03, 0x85, 0x04]) ∧
    acceptable (std8 0x612 #v[0x40, 0x40, 0, 0, 0, 0, 0, 0]) e40 ∧
    decodeFrame 0x12 #v[0x40, 0x40, 0, 0, 0, 0, 0, 0] = none :=
  ⟨(acceptError_none_iff _ _).mp (by decide), by decide, (acceptError_none_iff _ _).mp (by decide), by decide⟩

/-- The bounds of the two parameters, both of them; a step that answers a next state. -/
theorem witness_ResetEstablishesLegality : 1 ≤ 256 ∧ 256 ≤ 256 ∧ 1 ≤ 1 ∧ 1 ≤ 256 := by decide

theorem witness_ParametersNeverChange : ∃ t, step { rx5 with input := [.reset] } = .next t := ⟨_, rfl⟩

theorem witness_UnsetBlockRefuses :
    (∀ e ∈ State.reset.sch, entryIsValid e = false) ∧ (1 : Byte) ≠ 0 ∧ enabled State.reset = false := by decide

/-- For InstructionsKeepLegality, StepsKeepLegality and DeliveredPayloadLengths. -/
theorem witness_legality :
    Inv rx11 ∧
    (∃ t, exec (.isotpCf 0x12 2 #v[0x8d, 0x10, 0x06, 0, 0, 0]) rx11 = .next t ∧
      Event.rxPayload 0x12 (reass11.buf ++ [0x8d, 0x10, 0x06]) ∈ newEvents rx11 t) ∧
    Inv tx5 ∧ (∃ t, exec (.isotpFc 0xf1 0 0 1 #v[0, 0, 0, 0]) tx5 = .next t) :=
  ⟨rx11_inv, ⟨_, rfl, by decide⟩, tx5_inv, ⟨_, rfl⟩⟩

theorem witness_StepsKeepLegality :
    ∃ t, step { rx11 with input := [.reset] } = .next t ∧ Inv { rx11 with input := [.reset] } :=
  ⟨_, rfl, rx11_inv⟩

/-- An error that resets no slot; a wrong SN in PER_PEER mode; a wrong sender in SINGLE mode. -/
theorem witness_ErrorsArePrecise :
    exec (.isotpCf 0x12 1 #v[0, 0, 0, 0, 0, 0]) e40 =
      .next { e40 with outs := e40.outs ++ [] ++ [.status .unexpectedCf (.sender 0x12)] } ∧
    isError .unexpectedCf = true ∧ resetsSlot .unexpectedCf = false ∧
    exec (.isotpCf 0x12 1 #v[0, 0, 0, 0, 0, 0]) rx11 =
      .next { e40 with outs := rx11.outs ++ [] ++ [.status .protocolViolationSequence (.sequence 0x12 2 1)] } ∧
    isError .protocolViolationSequence = true ∧ cfSlot 0x12 rx11 0 reass11 ∧ slotOfSender rx11 0x12 = some 0 ∧
    exec (.isotpCf 0xf1 1 #v[0, 0, 0, 0, 0, 0]) rx5Single =
      .next { e40Single with outs := rx5Single.outs ++ [] ++ [.status .protocolViolationSender (.senders 0x12 0xf1)] } ∧
    isError .protocolViolationSender = true :=
  ⟨rfl, by decide, by decide, rfl, by decide, ⟨rfl, rfl, fun _ => rfl⟩, by decide, rfl, by decide⟩

/-- For ReadingCommandsChangeNothing, CodecSeesOnlySchemas and FramerIgnoresSchemas. -/
theorem witness_kinds :
    readsOnly (.tpClassify ff14) = true ∧ isCodec (.codecDecode 0 signOnFrame) = true ∧ isFramer (.tpRx ff14) = true ∧
    coded.sch = ({ coded with slots := [] } : State).sch := by decide

/-- Each kind of state is written by some instruction. -/
theorem witness_OnlyNamedCommandsWrite :
    (afterInstr (.cfgWrite 0 0) e40).map (fun t => decide (t.cfg0 ≠ e40.cfg0)) = some true ∧
    (afterInstr (.cfgWrite 1 0) e40).map (fun t => decide (t.cfg1 ≠ e40.cfg1)) = some true ∧
    (afterInstr (.cfgWrite 2 0) e40).map (fun t => decide (t.cfg2 ≠ e40.cfg2)) = some true ∧
    (afterInstr (.schWrite 7 17 1) e40).map (fun t => decide (t.sch ≠ e40.sch)) = some true ∧
    (afterInstr (.tpRx ff14) e40).map (fun t => decide (t.slots ≠ e40.slots)) = some true ∧
    (afterInstr (.tpSend 0xf1 (0 :: 0 :: rest9)) e12).map (fun t => decide (t.tx ≠ e12.tx)) = some true := by decide

theorem witness_SentFrameShape :
    ∃ t, exec (.tpRx ff14) e40 = .next t ∧
      Event.txFrame (std8 0x640 #v[0x12, 0x30, 0, 1, 0, 0, 0, 0]) ∈ newEvents e40 t :=
  ⟨_, rfl, by decide⟩

/-- For RegisterWriteEffect, RegisterReadValue and StatusRegisterLayout. -/
theorem witness_registers :
    3 ≤ (3 : Byte).toNat ∧ 5 ≤ (5 : Byte).toNat ∧ parametersLegal e40 ∧ registersLegal e40 ∧ schemasLegal e40 :=
  ⟨by decide, by decide, by unfold parametersLegal; decide, by unfold registersLegal; decide, schemasLegal_zero rfl⟩

/-- For SchemaWriteEffect, SchemaReadValue and SchemaWriteThenRead. -/
theorem witness_schemaCommands :
    e40.sch.length ≤ (8 : Byte).toNat ∧ (7 : Byte).toNat < e40.sch.length ∧ 17 < (18 : Byte).toNat ∧
    e40.sch[(7 : Byte).toNat]? = some SchemaEntry.zero ∧ (17 : Byte).toNat ≤ 17 ∧ (7 : Byte) ≠ 6 := by decide

/-- An SCH_LOAD of one field on the last entry; its prefixes of one command and of all but one. -/
theorem witness_SchemaLoadWritesEntry :
    (7 : Byte).toNat < e40.sch.length ∧ ([⟨2, true, true, false, 5⟩] : List FieldSpec).length ≤ 8 ∧
    (schLoad 7 false true 0x600 [⟨2, true, true, false, 5⟩]).length = 5 ∧ 4 < 5 := by decide

theorem coded_schemas :
    schemaValid coded 0 signOn ∧ schemaValid coded 1 isotp ∧ schemaValid coded 2 leTest ∧ schemaValid coded 3 echo ∧
    ∀ e, ¬ schemaValid coded 4 e :=
  ⟨(validEntry_some_iff _ _ _).mp (by decide), (validEntry_some_iff _ _ _).mp (by decide),
    (validEntry_some_iff _ _ _).mp (by decide), (validEntry_some_iff _ _ _).mp (by decide),
    (validEntry_none_iff _ _).mp (by decide)⟩

/-- Three bytes, the last of which the echo schema's filter refuses. -/
def nack : RawFrame := ⟨0x612, false, 3, #v[0x62, 0x10, 0x11, 0, 0, 0, 0, 0]⟩

/-- Not well-formed: dlc 9. Wrong identifier: the sign-on frame against s2. Wrong length: dlc 7. A failing filter: field 2 of s4. -/
theorem witness_CodecDecodeResult :
    ¬ frameLegal ⟨0x640, false, 9, Vector.replicate 8 0⟩ ∧
    (frameLegal signOnFrame ∧ ¬ addressFits leTest signOnFrame) ∧
    (frameLegal ⟨0x1ffffff0, true, 7, Vector.replicate 8 0⟩ ∧ addressFits signOn ⟨0x1ffffff0, true, 7, Vector.replicate 8 0⟩ ∧
      (7 : BitVec 4).toNat ≠ entryLen signOn) ∧
    (frameLegal nack ∧ addressFits echo nack ∧ nack.dlc.toNat = entryLen echo ∧ 2 < entryFields echo ∧
      filterFails echo nack.data 2 ∧ ¬ filterFails echo nack.data 1 ∧ ¬ filterFails echo nack.data 0) ∧
    (frameLegal signOnFrame ∧ frameMatches signOn signOnFrame) := by
  simp only [← wellFormedFrame_iff, ← addrMatch_iff, ← fieldViolated_iff, frameMatches]
  decide

theorem witness_FieldBytesInOrder :
    fieldWidth leTest 1 ≤ 8 ∧ fieldOffset leTest 1 + fieldWidth leTest 1 ≤ 8 ∧ fieldLittle leTest 1 = true ∧
    fieldWidth isotp 2 ≤ 8 ∧ fieldOffset isotp 2 + fieldWidth isotp 2 = 8 ∧ fieldLittle isotp 2 = false := by decide

theorem witness_FieldValueSignExtends :
    1 ≤ fieldWidth leTest 1 ∧ fieldWidth leTest 1 ≤ 8 ∧ (0xFFFF : Word64).toNat < 2 ^ (8 * fieldWidth leTest 1) ∧
    fieldSigned leTest 1 = true ∧ fieldSigned leTest 0 = false := by decide

/-- For CodecEncodeResult, EncodedFrameIsWellFormed and EncodedFrameMeetsFilters: a constant field and a valid schema. -/
theorem witness_EncodedFrame :
    schemaValid coded 1 isotp ∧ schemaValid coded 3 echo ∧ 2 < entryFields echo ∧
    ∃ t, exec (.codecEncode 3 0x40 0 (Vector.replicate 8 0)) coded = .next t ∧
      Event.result (.frame ⟨0x640, false, 3, #v[0x62, 0x10, 0x10, 0, 0, 0, 0, 0]⟩) ∈ newEvents coded t :=
  ⟨coded_schemas.2.1, coded_schemas.2.2.2.1, by decide, _, rfl, by decide⟩

/-- -2 in a signed 2-byte field and 0xabcd in an unsigned one (V-L1-2). -/
theorem witness_EncodeDecodeRoundTrip :
    schemaValid coded 2 leTest ∧ fieldConst leTest 0 = false ∧ fieldSigned leTest 0 = false ∧
    (0xabcd : Word64).toNat < 2 ^ (8 * fieldWidth leTest 0) ∧ fieldSigned leTest 1 = true ∧
    (0xFFFFFFFFFFFFFFFE : Word64) = ((0xFFFFFFFFFFFFFFFE : Word64).setWidth (8 * fieldWidth leTest 1)).signExtend 64 ∧
    (3 : Byte).getLsbD 0 = true ∧ (3 : Byte).getLsbD 1 = true :=
  ⟨coded_schemas.2.2.1, by decide, by decide, by decide, by decide, by decide, by decide, by decide⟩

/-- Schema 4 is the first invalid one of 3..4; of 0..1 the second alone matches an ISO-TP frame; neither of 2..3 matches it. -/
theorem witness_CodecClassifyResult :
    (∀ e, ¬ schemaValid coded ((3 : Byte).toNat + 1) e) ∧ (∃ e, schemaValid coded ((3 : Byte).toNat + 0) e) ∧
    frameLegal ff14 ∧ ¬ frameMatches signOn ff14 ∧ frameMatches isotp ff14 ∧ ¬ frameMatches leTest ff14 ∧ ¬ frameMatches echo ff14 := by
  refine ⟨coded_schemas.2.2.2.2, ⟨echo, coded_schemas.2.2.2.1⟩, ?_⟩
  simp only [← wellFormedFrame_iff, ← addrMatch_iff, ← fieldViolated_iff, frameMatches]
  decide

/-- Disabled; dlc 9; identifier 0x712; dlc 7; recipient 0x41 (V-RX-24 to V-RX-29). -/
theorem witness_AcceptChecksInOrder :
    enabled State.reset = false ∧ enabled e40 = true ∧ ¬ frameLegal ⟨0x612, false, 9, Vector.replicate 8 0⟩ ∧
    (frameLegal (std8 0x712 (Vector.replicate 8 0)) ∧
      (0x712 : CanId).extractLsb' 8 3 ≠ (baseId e40).extractLsb' 8 3) ∧
    (frameLegal ⟨0x612, false, 7, Vector.replicate 8 0⟩ ∧ (0x612 : CanId).extractLsb' 8 3 = (baseId e40).extractLsb' 8 3 ∧
      (7 : BitVec 4) ≠ 8) ∧
    (frameLegal (std8 0x612 #v[0x41, 0, 0, 0, 0, 0, 0, 0]) ∧ (0x41 : Byte) ≠ localAddr e40) := by
  simp only [← wellFormedFrame_iff]
  decide

theorem witness_SingleFrameDelivers :
    1 ≤ (1 : Nibble).toNat ∧ (6 : Nibble).toNat ≤ 6 ∧ (0 : Nibble).toNat = 0 ∧ 7 ≤ (7 : Nibble).toNat ∧
    acceptable (std8 0x612 #v[0x40, 6, 1, 2, 3, 4, 5, 6]) e40 :=
  ⟨by decide, by decide, by decide, by decide, (acceptError_none_iff _ _).mp (by decide)⟩

/-- SINGLE mode, slot 0; PER_PEER, the sender's own slot; PER_PEER, a new sender and the least IDLE slot; lengths 5 and 6. -/
theorem witness_FirstFrameTakesItsSlot :
    (slotsLegal rx5Single ∧ ffSlot 0xf1 rx5Single 0) ∧ (slotsLegal rx5 ∧ ffSlot 0x12 rx5 0) ∧
    (slotsLegal rx5 ∧ ffSlot 0xf1 rx5 1) ∧ (5 : Length12).toNat ≤ 5 ∧ 6 ≤ (6 : Length12).toNat := by
  have single : perPeer rx5Single = false := by decide
  have peers : perPeer rx5 = true := by decide
  refine ⟨⟨rx5Single_slotsLegal, fun _ => ⟨rfl, by decide⟩, fun h => by simp [single] at h⟩,
    ⟨rx5_slotsLegal, fun h => by simp [peers] at h, fun _ => .inl ⟨reass5, rfl, rfl⟩⟩,
    ⟨rx5_slotsLegal, fun h => by simp [peers] at h, fun _ => .inr ⟨?_, rfl, ?_⟩⟩, by decide, by decide⟩
  · exact (slotOfSender_none_iff _ _).mp (by decide)
  · intro j hj
    obtain rfl : j = 0 := by omega
    decide

theorem witness_FirstFrameTurnedAway :
    (1 : Length12) ≠ 0 ∧ perPeer rxFull = true ∧ noneReceivingFrom 0x16 rxFull ∧ Slot.idle ∉ rxFull.slots :=
  ⟨by decide, by decide, (slotOfSender_none_iff _ _).mp (by decide), by decide⟩

/-- The slot of V-RX-5 (9 bytes outstanding) and that of V-RX-11 (3). -/
theorem witness_ConsecutiveFrameAppends :
    (slotsLegal rx5 ∧ cfSlot 0x12 rx5 0 reass5 ∧ 7 ≤ reass5.out.toNat) ∧
    (slotsLegal rx11 ∧ cfSlot 0x12 rx11 0 reass11 ∧ reass11.out.toNat ≤ 6) :=
  ⟨⟨rx5_slotsLegal, ⟨rfl, rfl, fun _ => rfl⟩, by decide⟩, ⟨rx11_slotsLegal, ⟨rfl, rfl, fun _ => rfl⟩, by decide⟩⟩

theorem witness_ConsecutiveFrameViolations :
    (slotsLegal rx11 ∧ cfSlot 0x12 rx11 0 reass11 ∧ (1 : Nibble) ≠ reass11.nsn) ∧
    (slotsLegal rx5Single ∧ perPeer rx5Single = false ∧ rx5Single.slots[0]? = some (Slot.receiving reass5) ∧ reass5.sender ≠ 0xf1) ∧
    (slotsLegal e40Single ∧ perPeer e40Single = false ∧ e40Single.slots[0]? = some Slot.idle) ∧
    (slotsLegal rx5 ∧ perPeer rx5 = true ∧ noneReceivingFrom 0xf1 rx5) :=
  ⟨⟨rx11_slotsLegal, ⟨rfl, rfl, fun _ => rfl⟩, by decide⟩, ⟨rx5Single_slotsLegal, by decide, rfl, by decide⟩,
    ⟨e40Single_slotsLegal, by decide, rfl⟩, ⟨rx5_slotsLegal, by decide, (slotOfSender_none_iff _ _).mp (by decide)⟩⟩

theorem witness_SequenceErrorLeavesFreshStart :
    slotsLegal rx5 ∧ cfSlot 0x12 rx5 0 reass5 ∧ (2 : Nibble) ≠ reass5.nsn ∧ 6 ≤ (14 : Length12).toNat :=
  ⟨rx5_slotsLegal, ⟨rfl, rfl, fun _ => rfl⟩, by decide, by decide⟩

/-- dlc 9; dlc 7; type nibbles 0 (lengths 6, 7), 1 (lengths 14, 0), 2, 3 and 4. -/
theorem witness_ClassifierReportsPci :
    ¬ frameLegal ⟨0x612, false, 9, Vector.replicate 8 0⟩ ∧
    (frameLegal ⟨0x612, false, 7, Vector.replicate 8 0⟩ ∧ (7 : BitVec 4) ≠ 8) ∧ frameLegal ff14 ∧
    ((0x06 : Byte).extractLsb' 4 4 = 0#4 ∧ ((0x06 : Byte).extractLsb' 0 4).toNat = 6) ∧
    ((0x07 : Byte).extractLsb' 4 4 = 0#4 ∧ ((0x07 : Byte).extractLsb' 0 4).toNat = 7) ∧
    ((0x10 : Byte).extractLsb' 4 4 = 1#4 ∧ ((0x10 : Byte).extractLsb' 0 4) ++ (0x0e : Byte) ≠ 0#12 ∧
      ((0x10 : Byte).extractLsb' 0 4) ++ (0 : Byte) = 0#12) ∧
    (0x2a : Byte).extractLsb' 4 4 = 2#4 ∧ (0x3f : Byte).extractLsb' 4 4 = 3#4 ∧ 4 ≤ ((0x40 : Byte).extractLsb' 4 4).toNat := by
  simp only [← wellFormedFrame_iff]
  decide

theorem witness_SendEffect :
    enabled State.reset = false ∧ enabled e12 = true ∧ ([] : List Byte).length = 0 ∧
    4096 ≤ (List.replicate 4096 (0 : Byte)).length ∧ 1 ≤ ([0] : List Byte).length ∧ (List.replicate 6 (0 : Byte)).length ≤ 6 ∧
    7 ≤ (List.replicate 7 (0 : Byte)).length ∧ (List.replicate 4095 (0 : Byte)).length ≤ 4095 := by
  simp only [List.length_replicate]
  decide

/-- DRAIN_ANY with an abort status; STRICT with a continue; the second also for StrictWaitAndAbort. -/
theorem witness_FlowControlDrains :
    (tx5.tx = .pending 0xf1 rest9 1 ∧ strict tx5 = false) ∧ (tx5s.tx = .pending 0xf1 rest9 1 ∧ strict tx5s = true) := by decide

/-- A status of 3 under STRICT; no segment; a segment for another peer. -/
theorem witness_FlowControlRefused :
    (strict tx5s = true ∧ 3 ≤ (3 : Nibble).toNat) ∧ (strict e12 = false ∧ ∀ rem sn, e12.tx ≠ .pending 0xf1 rem sn) ∧
    ((2 : Nibble).toNat ≤ 2 ∧ ∀ rem sn, tx5s.tx ≠ .pending 0x13 rem sn) := by
  refine ⟨by decide, ⟨by decide, fun rem sn h => ?_⟩, by decide, fun rem sn h => ?_⟩
  · cases h
  · simp [tx5s] at h

theorem witness_PayloadFrameCount :
    enabled e12 = true ∧ 7 ≤ (List.replicate 7 (0 : Byte)).length ∧ (List.replicate 4095 (0 : Byte)).length ≤ 4095 := by
  simp only [List.length_replicate]
  decide

theorem witness_NewFlowParametersApply :
    slotsLegal e40 ∧ ffSlot 0xf1 e40 0 ∧ 6 ≤ (14 : Length12).toNat := by
  have peers : perPeer e40 = true := by decide
  refine ⟨e40_slotsLegal, ⟨fun h => by simp [peers] at h, fun _ => .inr ⟨?_, rfl, fun j hj => by omega⟩⟩, by decide⟩
  exact (slotOfSender_none_iff _ _).mp (by decide)

/-- A SINGLE sender at 0x12 and a PER_PEER receiver at 0x40 with one slot busy; payloads of 1 and of 4095 bytes. -/
theorem witness_SegmentReassembleRoundTrip :
    enabled e12 = true ∧ enabled rx5 = true ∧ localAddr e12 = 0x12 ∧ localAddr rx5 = 0x40 ∧ baseId e12 = baseId rx5 ∧
    (baseId e12).extractLsb' 0 8 = 0 ∧ noneReceivingFrom 0xf1 rx5 ∧ perPeer rx5 = true ∧ Slot.idle ∈ rx5.slots ∧
    noneReceivingFrom 0x12 e40 ∧ 0 < e40.slots.length :=
  ⟨by decide, by decide, by decide, by decide, by decide, by decide, (slotOfSender_none_iff _ _).mp (by decide), by decide,
    by decide, (slotOfSender_none_iff _ _).mp (by decide), by decide⟩

end Sys2Proof.Tests
end

section
/-! SUPPORT. Everything an instruction can do: `Effect` lists the ways one can end, and `exec_effect` says that there is no other. The
statements about whole runs go through it and unfold no meaning again. -/

namespace Sys2Proof.Machine

/-! ## The instructions that hand a frame to the framer -/

/-- The instruction hands the framer a frame of this kind from this sender: as a frame kind, or inside TP_RX (41_framer_rx.md R161). -/
inductive Carries : Instr → FrameKind → Byte → Prop
  | tpRx (f : RawFrame) (kind : FrameKind) : Carries (.tpRx f) kind (senderOf f)
  | isotpSf (who : Byte) (dl : Nibble) (b : Vector Byte 6) : Carries (.isotpSf who dl b) .sf who
  | isotpFf (who : Byte) (len : Length12) (b : Vector Byte 5) : Carries (.isotpFf who len b) .ff who
  | isotpCf (who : Byte) (sn : Nibble) (b : Vector Byte 6) : Carries (.isotpCf who sn b) .cf who
  | isotpFc (who : Byte) (fs : Nibble) (bs st : Byte) (padding : Vector Byte 4) : Carries (.isotpFc who fs bs st padding) .fc who

/-! ## The effects of an instruction -/

/-- `Effect s i u es c info`: in state `s`, instruction `i` may write the state to `u`, emit `es`, and end with the Status `c`, `info`. -/
inductive Effect (s : State) : Instr → State → List Event → Code → Info → Prop
  /-- Only a Status: a refusal, or a flow-control wait (42_framer_tx.md R228). -/
  | statusOnly (i : Instr) (c : Code) (info : Info) (hfit : infoFits c info = true) : Effect s i s [] c info
  /-- A result, and no write. -/
  | answer (i : Instr) (r : Result) : Effect s i s [.result r] .ok .empty
  | cfg0 (v : Word32) : Effect s (.cfgWrite 0 v) (framerReset (setCfg0 s (v &&& cfg0Mask))) [] .ok .empty
  | cfg1 (v : Word32) : Effect s (.cfgWrite 1 v) (framerReset (setCfg1 s (v &&& cfg1Mask))) [] .ok .empty
  | cfg2 (v : Word32) : Effect s (.cfgWrite 2 v) (setCfg2 s (v &&& cfg2Mask)) [] .ok .empty
  | schema (k w : Byte) (v : Word64) (e : SchemaEntry) (he : s.sch[k.toNat]? = some e) (hw : w.toNat < 18) :
      Effect s (.schWrite k w v) (setSch s (s.sch.set k.toNat (setWord e w.toNat (v &&& schMask w.toNat)))) [] .ok .empty
  | discard (who : Byte) (all : Bool) :
      Effect s (.tpDiscard who all) (setSlots s (s.slots.map (fun v => if discards who all v then .idle else v))) []
        .ok (.discarded (s.slots.countP (discards who all)))
  | sendWhole (r : Byte) (p : List Byte) (h1 : 1 ≤ p.length) (h2 : p.length ≤ 6) :
      Effect s (.tpSend r p) (setTx s .none) [.txFrame (sfFrame s r p)] (sendStatus s).1 (sendStatus s).2
  | sendFirst (r : Byte) (p : List Byte) (h1 : 7 ≤ p.length) (h2 : p.length ≤ 4095) :
      Effect s (.tpSend r p) (setTx s (.pending r (p.drop 5) 1)) [.txFrame (ffFrame s r p)] (sendStatus s).1 (sendStatus s).2
  /-- A flow control drains the segment pending for its sender (42_framer_tx.md R222). -/
  | drained (i : Instr) (who : Byte) (rem : List Byte) (sn : Nibble) (hi : Carries i .fc who) (ht : s.tx = .pending who rem sn) :
      Effect s i (setTx s .none) ((drainFrames s who rem.length rem sn).map .txFrame) .ok .empty
  /-- A flow control aborts the segment pending for its sender (42_framer_tx.md R229). -/
  | aborted (i : Instr) (who : Byte) (rem : List Byte) (sn : Nibble) (hi : Carries i .fc who) (ht : s.tx = .pending who rem sn)
      (hs : strict s = true) : Effect s i (setTx s .none) [] .txAborted (.recipient who)
  /-- A single frame is delivered (41_framer_rx.md R166). -/
  | single (i : Instr) (who : Byte) (p : List Byte) (hi : Carries i .sf who) (h1 : 1 ≤ p.length) (h2 : p.length ≤ 6) :
      Effect s i s [.rxPayload who p] .ok .empty
  /-- A first frame holds the whole payload (R174). -/
  | firstWhole (i : Instr) (who : Byte) (chunk : List Byte) (k : Nat) (hi : Carries i .ff who) (hk : selectSlotFf who s = some k)
      (h1 : 1 ≤ chunk.length) (h2 : chunk.length ≤ 5) :
      Effect s i (setSlot s k .idle) [.rxPayload who chunk] (ffStatus s k).1 (ffStatus s k).2
  /-- A first frame starts a reassembly (R175). -/
  | firstStarts (i : Instr) (who : Byte) (len : Length12) (chunk : List Byte) (k : Nat) (hi : Carries i .ff who)
      (hk : selectSlotFf who s = some k) (h1 : chunk.length = 5) (h2 : 5 < len.toNat) :
      Effect s i (setSlot s k (.receiving (startReassembly who len chunk))) [.txFrame (fcFrame s who)]
        (ffStatus s k).1 (ffStatus s k).2
  /-- A consecutive frame from another sender than slot 0 receives from, in SINGLE mode (R180). -/
  | wrongSender (i : Instr) (who : Byte) (r : Reassembly) (hi : Carries i .cf who) (hp : perPeer s = false)
      (hr : s.slots[0]? = some (Slot.receiving r)) (hs : r.sender ≠ who) :
      Effect s i (setSlot s 0 .idle) [] .protocolViolationSender (.senders r.sender who)
  /-- A consecutive frame out of sequence (R181). -/
  | wrongSequence (i : Instr) (who : Byte) (sn : Nibble) (k : Nat) (r : Reassembly) (hi : Carries i .cf who) (hk : cfSlot who s k r)
      (hm : perPeer s = true → slotOfSender s who = some k) (hn : sn ≠ r.nsn) :
      Effect s i (setSlot s k .idle) [] .protocolViolationSequence (.sequence who r.nsn sn)
  /-- The last consecutive frame of a payload (R184). -/
  | lastChunk (i : Instr) (who : Byte) (b : Vector Byte 6) (k : Nat) (r : Reassembly) (hi : Carries i .cf who) (hk : cfSlot who s k r)
      (ho : (appendCf r b).out = 0) : Effect s i (setSlot s k .idle) [.rxPayload who (appendCf r b).buf] .ok .empty
  /-- A consecutive frame that leaves bytes outstanding (R182). -/
  | nextChunk (i : Instr) (who : Byte) (b : Vector Byte 6) (k : Nat) (r : Reassembly) (hi : Carries i .cf who) (hk : cfSlot who s k r)
      (ho : (appendCf r b).out ≠ 0) : Effect s i (setSlot s k (.receiving (appendCf r b))) [] .ok .empty

/-- The outcome is an effect of the instruction, ended by its Status. -/
def EndsIn (s : State) (i : Instr) (o : Host.Outcome State Fault Refusal) : Prop :=
  ∃ u es c info, Effect s i u es c info ∧ o = finish u es c info

/-- An effect, finished, is how its instruction ends. -/
theorem Effect.endsIn {s u : State} {i : Instr} {es : List Event} {c : Code} {info : Info} (h : Effect s i u es c info) :
    EndsIn s i (finish u es c info) :=
  ⟨u, es, c, info, h, rfl⟩

theorem endsIn_raise {s : State} (i : Instr) {c : Code} {info : Info} (hfit : infoFits c info = true) : EndsIn s i (raise s c info) :=
  (Effect.statusOnly i c info hfit).endsIn

theorem endsIn_answer (s : State) (i : Instr) (r : Result) : EndsIn s i (done s [.result r]) :=
  (Effect.answer i r).endsIn

/-! ## The codec -/

/-- A check of `Match` that fails reports an info record of its code's shape (40_codec.md R126). -/
theorem matchEntry_err_fits {k : Nat} {e : SchemaEntry} {f : RawFrame} {c : Code} {info : Info}
    (h : matchEntry k e f = .err c info) : infoFits c info = true := by
  unfold matchEntry at h
  split at h
  · cases h; rfl
  · split at h
    · cases h; rfl
    · split at h <;> cases h
      rfl

theorem execCodecDecode_endsIn (s : State) (i : Instr) (k : Byte) (f : RawFrame) : EndsIn s i (execCodecDecode k f s) := by
  unfold execCodecDecode
  split
  · exact endsIn_raise i rfl
  · split
    · exact endsIn_raise i rfl
    · split
      · exact endsIn_raise i (matchEntry_err_fits ‹_›)
      · exact endsIn_answer s i _

theorem execCodecEncode_endsIn (s : State) (i : Instr) (k sender m : Byte) (v : Vector Word64 8) :
    EndsIn s i (execCodecEncode k sender m v s) := by
  unfold execCodecEncode
  split
  · exact endsIn_raise i rfl
  · exact endsIn_answer s i _

theorem execCodecClassify_endsIn (s : State) (i : Instr) (k n : Byte) (f : RawFrame) : EndsIn s i (execCodecClassify k n f s) := by
  unfold execCodecClassify
  split
  · exact endsIn_raise i rfl
  · split
    · exact endsIn_raise i rfl
    · split
      · exact endsIn_answer s i _
      · exact endsIn_raise i rfl

/-! ## Registers and schema words -/

theorem execCfgWrite_endsIn (s : State) (n : Byte) (v : Word32) : EndsIn s (.cfgWrite n v) (execCfgWrite n v s) := by
  unfold execCfgWrite
  split
  · next h => subst h; exact (Effect.cfg0 v).endsIn
  · split
    · next h => subst h; exact (Effect.cfg1 v).endsIn
    · split
      · next h => subst h; exact (Effect.cfg2 v).endsIn
      · exact endsIn_raise _ rfl

theorem execCfgRead_endsIn (s : State) (i : Instr) (n : Byte) : EndsIn s i (execCfgRead n s) := by
  unfold execCfgRead
  split
  · exact endsIn_answer s i _
  · exact endsIn_raise i rfl

theorem execSchWrite_endsIn (s : State) (k w : Byte) (v : Word64) : EndsIn s (.schWrite k w v) (execSchWrite k w v s) := by
  unfold execSchWrite
  split
  · exact endsIn_raise _ rfl
  · next e he =>
    split
    · exact endsIn_raise _ rfl
    · exact (Effect.schema k w v e he (by omega)).endsIn

theorem execSchRead_endsIn (s : State) (i : Instr) (k w : Byte) : EndsIn s i (execSchRead k w s) := by
  unfold execSchRead
  split
  · exact endsIn_raise i rfl
  · split
    · exact endsIn_raise i rfl
    · exact endsIn_answer s i _

/-! ## The framer's send side -/

theorem execTpSend_endsIn (s : State) (r : Byte) (p : List Byte) : EndsIn s (.tpSend r p) (execTpSend r p s) := by
  unfold execTpSend
  split
  · exact endsIn_raise _ rfl
  · split
    · exact endsIn_raise _ rfl
    · next hlen =>
      simp only [Config.maxPayload, not_or, not_lt] at hlen
      split
      · exact (Effect.sendWhole r p (by omega) ‹_›).endsIn
      · exact (Effect.sendFirst r p (by omega) hlen.2).endsIn

theorem rxFc_endsIn {i : Instr} {who : Byte} (fs : Nibble) (s : State) (hi : Carries i .fc who) : EndsIn s i (rxFc who fs s) := by
  obtain ⟨-, -, h⟩ | h | ⟨rem, sn, ht, -, h⟩ | ⟨-, -, -, -, -, h⟩ | ⟨rem, sn, ht, hs, h⟩ := rxFc_cases who fs s <;> rw [h]
  · exact endsIn_raise i rfl
  · exact endsIn_raise i rfl
  · exact (Effect.drained i who rem sn hi ht).endsIn
  · exact (Effect.statusOnly i .ok .wait rfl).endsIn
  · exact (Effect.aborted i who rem sn hi ht hs).endsIn

/-! ## The framer's receive side -/

theorem rxFf_endsIn {i : Instr} {who : Byte} (len : Length12) (chunk : List Byte) (s : State) (hi : Carries i .ff who)
    (h1 : 1 ≤ chunk.length) (hc : chunk.length = min len.toNat 5) : EndsIn s i (rxFf who len chunk s) := by
  obtain ⟨-, h⟩ | ⟨k, hk, hle, h⟩ | ⟨k, hk, hlt, h⟩ := rxFf_cases who len chunk s <;> rw [h]
  · exact endsIn_raise i rfl
  · exact (Effect.firstWhole i who chunk k hi hk h1 (by omega)).endsIn
  · exact (Effect.firstStarts i who len chunk k hi hk (by omega) (by omega)).endsIn

theorem rxCf_endsIn {i : Instr} {who : Byte} (sn : Nibble) (b : Vector Byte 6) (s : State) (hi : Carries i .cf who) :
    EndsIn s i (rxCf who sn b s) := by
  obtain h | ⟨r, hp, hr, hs, h⟩ | ⟨k, r, hk, hm, h⟩ := rxCf_cases who sn b s <;> rw [h]
  · exact endsIn_raise i rfl
  · exact (Effect.wrongSender i who r hi hp hr hs).endsIn
  · obtain ⟨hn, h⟩ | ⟨-, ho, h⟩ | ⟨-, ho, h⟩ := cfIntoSlot_cases who sn b k r s <;> rw [h]
    · exact (Effect.wrongSequence i who sn k r hi hk hm hn).endsIn
    · exact (Effect.lastChunk i who b k r hi hk ho).endsIn
    · exact (Effect.nextChunk i who b k r hi hk ho).endsIn

theorem rxClassified_sfPci_endsIn {i : Instr} {who : Byte} (dl : Nibble) (b : Vector Byte 6) (s : State) (hi : Carries i .sf who) :
    EndsIn s i (rxClassified who (sfPci dl b) s) := by
  unfold sfPci
  split
  · exact endsIn_raise i rfl
  · next h =>
    have hdl : dl ≠ 0 ∧ dl.toNat ≤ 6 := by simpa using h
    have hpos : dl.toNat ≠ 0 := fun h0 => hdl.1 (BitVec.eq_of_toNat_eq h0)
    have htake : (b.toList.take dl.toNat).length = dl.toNat := by simp; omega
    exact (Effect.single i who _ hi (by omega) (by omega)).endsIn

theorem rxClassified_ffPci_endsIn {i : Instr} {who : Byte} (len : Length12) (b : Vector Byte 5) (s : State) (hi : Carries i .ff who) :
    EndsIn s i (rxClassified who (ffPci len b) s) := by
  unfold ffPci
  split
  · exact endsIn_raise i rfl
  · next hlen =>
    have hpos : len.toNat ≠ 0 := fun h0 => hlen (BitVec.eq_of_toNat_eq h0)
    have hchunk : (b.toList.take (min len.toNat 5)).length = min len.toNat 5 := by simp
    exact rxFf_endsIn len _ s hi (by omega) hchunk

theorem rxClassified_classifyPci_endsIn {i : Instr} {who : Byte} (data : Vector Byte 8) (s : State) (hi : ∀ kind, Carries i kind who) :
    EndsIn s i (rxClassified who (classifyPci data) s) := by
  unfold classifyPci
  split
  · exact rxClassified_sfPci_endsIn _ _ s (hi .sf)
  · split
    · exact rxClassified_ffPci_endsIn _ _ s (hi .ff)
    · split
      · exact rxCf_endsIn _ _ s (hi .cf)
      · split
        · exact rxFc_endsIn _ s (hi .fc)
        · exact endsIn_raise i rfl

/-- A check of `Accept` that fails reports an info record of its code's shape (41_framer_rx.md R162). -/
theorem acceptError_fits {f : RawFrame} {s : State} {e : Code × Info} (h : acceptError f s = some e) : infoFits e.1 e.2 = true := by
  unfold acceptError at h
  repeat' split at h
  all_goals cases h
  all_goals rfl

theorem execTpRx_endsIn (s : State) (f : RawFrame) : EndsIn s (.tpRx f) (execTpRx f s) := by
  unfold execTpRx
  split
  · next e he => exact endsIn_raise _ (acceptError_fits he)
  · exact rxClassified_classifyPci_endsIn f.data s (Carries.tpRx f)

/-- An error of `ClassifyPCI` reports an info record of its code's shape (R164). -/
theorem classifyPci_err_fits {data : Vector Byte 8} {c : Code} {info : Info} (h : classifyPci data = .err c info) :
    infoFits c info = true := by
  unfold classifyPci sfPci ffPci cfPci fcPci at h
  repeat' split at h
  all_goals cases h
  all_goals rfl

theorem execTpClassify_endsIn (s : State) (i : Instr) (f : RawFrame) : EndsIn s i (execTpClassify f s) := by
  unfold execTpClassify
  split
  · exact endsIn_raise i rfl
  · split
    · exact endsIn_raise i rfl
    · unfold classifyResult
      split
      · exact endsIn_raise i (classifyPci_err_fits ‹_›)
      all_goals exact endsIn_answer s i _

theorem execTpDiscard_endsIn (s : State) (who : Byte) (all : Bool) : EndsIn s (.tpDiscard who all) (execTpDiscard who all s) := by
  unfold execTpDiscard
  split
  · exact endsIn_raise _ rfl
  · exact (Effect.discard who all).endsIn

/-! ## Every instruction -/

/-- Every instruction, in every state, ends in one of the effects. -/
theorem exec_endsIn (i : Instr) (s : State) : EndsIn s i (exec i s) := by
  cases i with
  | codecDecode k f => exact execCodecDecode_endsIn s _ k f
  | codecEncode k sender m v => exact execCodecEncode_endsIn s _ k sender m v
  | codecClassify k n f => exact execCodecClassify_endsIn s _ k n f
  | tpRx f => exact execTpRx_endsIn s f
  | tpSend r p => exact execTpSend_endsIn s r p
  | tpClassify f => exact execTpClassify_endsIn s _ f
  | tpDiscard who all => exact execTpDiscard_endsIn s who all
  | cfgWrite n v => exact execCfgWrite_endsIn s n v
  | cfgRead n => exact execCfgRead_endsIn s _ n
  | schWrite k w v => exact execSchWrite_endsIn s k w v
  | schRead k w => exact execSchRead_endsIn s _ k w
  | isotpSf who dl b => exact rxClassified_sfPci_endsIn dl b s (.isotpSf who dl b)
  | isotpFf who len b => exact rxClassified_ffPci_endsIn len b s (.isotpFf who len b)
  | isotpCf who sn b => exact rxCf_endsIn sn b s (.isotpCf who sn b)
  | isotpFc who fs bs st padding => exact rxFc_endsIn fs s (.isotpFc who fs bs st padding)

/-- What a next state of an instruction is: an effect's state with the effect's events and its Status at the end of the output. -/
theorem effect_of_exec {i : Instr} {s t : State} (h : exec i s = .next t) :
    ∃ u es c info, Effect s i u es c info ∧ t = emits u (es ++ [.status c info]) := by
  obtain ⟨u, es, c, info, heff, hexec⟩ := exec_endsIn i s
  exact ⟨u, es, c, info, heff, by simpa [finish] using h.symm.trans hexec⟩

end Sys2Proof.Machine
end

section
/-! SUPPORT. What every effect has in common, and how a step comes to its next state. -/

namespace Sys2Proof.Machine

/-! ## Status and parameters -/

theorem sendStatus_fits (s : State) : infoFits (sendStatus s).1 (sendStatus s).2 = true := by
  unfold sendStatus
  split <;> rfl

theorem ffStatus_fits (s : State) (k : Nat) : infoFits (ffStatus s k).1 (ffStatus s k).2 = true := by
  unfold ffStatus
  split <;> rfl

variable {s u t : State} {i : Instr} {es : List Event} {c : Code} {info : Info}

/-- An effect writes no output of its own: its events are those it lists. -/
theorem Effect.outs_eq (h : Effect s i u es c info) : u.outs = s.outs := by
  cases h <;> rfl

/-- The Status is not among the events before it. -/
theorem Effect.no_status (h : Effect s i u es c info) : ∀ e ∈ es, isStatus e = false := by
  cases h with
  | drained =>
    intro e he
    obtain ⟨f, -, rfl⟩ := List.mem_map.mp he
    rfl
  | _ => simp [isStatus]

theorem Effect.fits (h : Effect s i u es c info) : infoFits c info = true := by
  cases h with
  | statusOnly _ _ _ hfit => exact hfit
  | sendWhole => exact sendStatus_fits s
  | sendFirst => exact sendStatus_fits s
  | firstWhole => exact ffStatus_fits s _
  | firstStarts => exact ffStatus_fits s _
  | _ => rfl

/-- No effect changes the number of slots or of schema entries (00_scope.md R6). -/
theorem Effect.lengths_eq (h : Effect s i u es c info) : u.slots.length = s.slots.length ∧ u.sch.length = s.sch.length := by
  cases h <;> simp

/-- The events of an instruction are its effect's events and its Status. -/
theorem Effect.newEvents_eq (h : Effect s i u es c info) :
    newEvents s (emits u (es ++ [.status c info])) = es ++ [.status c info] :=
  newEvents_append s _ _ (by rw [emits_outs, h.outs_eq])

theorem exec_lengths_eq (h : exec i s = .next t) : t.slots.length = s.slots.length ∧ t.sch.length = s.sch.length := by
  obtain ⟨u, es, c, info, heff, rfl⟩ := effect_of_exec h
  exact heff.lengths_eq

/-! ## Steps -/

theorem step_of_no_input (h : s.input = []) : step s = .fault .endOfRun := by
  simp [step, h]

theorem step_of_instr {bytes : List Byte} {rest : List HostInput} (h : s.input = .command bytes :: rest)
    (hd : decode bytes = .instr i) : step s = exec i (takeInput s rest) := by
  simp [step, h, hd]

/-- Bytes that are not one header and its operand block stop the step (log 5). -/
theorem step_of_wrong_length {bytes : List Byte} {rest : List HostInput} (h : s.input = .command bytes :: rest)
    (hd : decode bytes = .reject .shortHeader ∨ decode bytes = .reject .shortOperand ∨ decode bytes = .reject .longOperand) :
    step s = .refused .notACommand := by
  obtain hd | hd | hd := hd <;> simp [step, h, hd]

/-- A step that answers a next state resets the block, runs an instruction, or refuses a header or operand (30_encoding.md R83, R84). -/
theorem step_next_cases (h : step s = .next t) : ∃ rest,
    t = setInput (resetEvent s) rest ∨ (∃ i, exec i (takeInput s rest) = .next t) ∨
    ∃ opc, t = emits (takeInput s rest) [.status .illegalCommand (.opc opc)] := by
  unfold step at h
  split at h
  · cases h
  · cases h
    exact ⟨_, .inl rfl⟩
  · split at h
    · exact ⟨_, .inr (.inl ⟨_, h⟩)⟩
    · cases h
      exact ⟨_, .inr (.inr ⟨_, rfl⟩)⟩
    · cases h
      exact ⟨_, .inr (.inr ⟨_, rfl⟩)⟩
    · cases h
      exact ⟨_, .inr (.inr ⟨_, rfl⟩)⟩
    all_goals cases h

end Sys2Proof.Machine
end

section
/-! SUPPORT. The invariant `Inv`: what establishes and what keeps each of its parts. -/

namespace Sys2Proof.Machine

/-! ## Reserved bits -/

/-- Bits outside a mask are 0 in a word that was masked. -/
@[simp] theorem and_mask_and_not {n : Nat} (v m : BitVec n) : v &&& m &&& ~~~m = 0 := by
  rw [BitVec.and_assoc]
  simp

variable {s t : State}

/-- A schema table keeps its reserved bits 0 when a word is written under its mask (43_config.md R244). -/
theorem schemasLegal_write {k w : Nat} {e : SchemaEntry} (hl : schemasLegal s) (he : s.sch[k]? = some e) (v : Word64) :
    schemasLegal (setSch s (s.sch.set k (setWord e w (v &&& schMask w)))) := by
  intro e' he' j hj
  obtain hmem | rfl := List.mem_or_eq_of_mem_set he'
  · exact hl e' hmem j hj
  · rw [wordAt_setWord]
    split
    · next h => rw [h.1, and_mask_and_not]
    · exact hl e (List.mem_of_getElem? he) j hj

/-- Every word of an entry is 0 after reset (10_state.md R35). -/
@[simp] theorem wordAt_zero (w : Nat) : wordAt SchemaEntry.zero w = 0 := by
  simp only [wordAt, SchemaEntry.zero, Vector.toList_replicate, List.getD_eq_getElem?_getD, List.getElem?_replicate]
  split <;> rfl

/-! ## Slots -/

/-- A table in which no slot receives is legal in either mode. -/
theorem slotsLegal_of_none_receiving (h : ∀ (k : Nat) (r : Reassembly), s.slots[k]? ≠ some (Slot.receiving r)) :
    slotsLegal s :=
  ⟨fun k r hr => absurd hr (h k r), fun _ k r hr => absurd hr (h k r), fun _ j _ q _ hq => absurd hq (h j q)⟩

/-- A table stays legal when its mode is kept and no slot receives anything new. -/
theorem slotsLegal_of_receiving_kept (hl : slotsLegal s) (hp : perPeer t = perPeer s)
    (h : ∀ (k : Nat) (r : Reassembly), t.slots[k]? = some (Slot.receiving r) → s.slots[k]? = some (Slot.receiving r)) :
    slotsLegal t := by
  obtain ⟨hreass, hsingle, hpeers⟩ := hl
  refine ⟨fun k r hr => hreass k r (h k r hr), fun hm k r hr => hsingle (hp ▸ hm) k r (h k r hr), ?_⟩
  exact fun hm j k q r hq hr => hpeers (hp ▸ hm) j k q r (h j q hq) (h k r hr)

theorem slotsLegal_framerReset (s : State) : slotsLegal (framerReset s) :=
  slotsLegal_of_none_receiving (by simp [List.getElem?_replicate])

theorem slotsLegal_setSlot_idle (hl : slotsLegal s) (k : Nat) : slotsLegal (setSlot s k .idle) := by
  refine slotsLegal_of_receiving_kept hl rfl fun j r hr => ?_
  rw [setSlot_slots, List.getElem?_set] at hr
  split at hr
  · split at hr <;> cases hr
  · exact hr

theorem slotsLegal_discard (hl : slotsLegal s) (who : Byte) (all : Bool) :
    slotsLegal (setSlots s (s.slots.map (fun v => if discards who all v then .idle else v))) := by
  refine slotsLegal_of_receiving_kept hl rfl fun j r hr => ?_
  rw [setSlots_slots, List.getElem?_map, Option.map_eq_some_iff] at hr
  obtain ⟨v, hv, hr⟩ := hr
  split at hr
  · cases hr
  · rw [hv, hr]

/-- A reassembly from `who` may stand in slot `k`: in SINGLE mode it is slot 0, in PER_PEER mode no other slot receives from `who`. -/
def slotFree (who : Byte) (s : State) (k : Nat) : Prop :=
  (perPeer s = false → k = 0) ∧
  (perPeer s = true → ∀ (j : Nat) (q : Reassembly), s.slots[j]? = some (Slot.receiving q) → q.sender = who → j = k)

/-- The slot an FF takes has room for it (41_framer_rx.md R170). -/
theorem slotFree_of_selectSlotFf {who : Byte} {k : Nat} (hl : slotsLegal s) (h : selectSlotFf who s = some k) : slotFree who s k := by
  obtain ⟨-, -, hpeers⟩ := hl
  obtain ⟨hp, rfl⟩ | ⟨hp, r, hr, hs⟩ | ⟨hp, hnone, -⟩ := selectSlotFf_cases h
  · exact ⟨fun _ => rfl, fun hm => by simp [hp] at hm⟩
  · exact ⟨fun hm => by simp [hp] at hm, fun hm j q hq hqs => hpeers hm j k q r hq hr (hqs.trans hs.symm)⟩
  · exact ⟨fun hm => by simp [hp] at hm, fun _ j q hq hqs => absurd hqs (hnone q (List.mem_of_getElem? hq))⟩

/-- The slot a CF continues has room for the reassembly it holds (R178). -/
theorem slotFree_of_cfSlot {who : Byte} {k : Nat} {r : Reassembly} (hl : slotsLegal s) (h : cfSlot who s k r) : slotFree who s k := by
  obtain ⟨-, -, hpeers⟩ := hl
  obtain ⟨hr, hs, hsingle⟩ := h
  exact ⟨hsingle, fun hm j q hq hqs => hpeers hm j k q r hq hr (hqs.trans hs.symm)⟩

theorem reassemblyLegal_of_cfSlot {who : Byte} {k : Nat} {r : Reassembly} (hl : slotsLegal s) (h : cfSlot who s k r) :
    reassemblyLegal r :=
  hl.1 k r h.1

/-- A legal reassembly in a slot that is free for its sender leaves the table legal. -/
theorem slotsLegal_setSlot_receiving {k : Nat} {r : Reassembly} (hl : slotsLegal s) (hr : reassemblyLegal r)
    (hfree : slotFree r.sender s k) : slotsLegal (setSlot s k (.receiving r)) := by
  obtain ⟨hreass, hsingle, hpeers⟩ := hl
  obtain ⟨hzero, honly⟩ := hfree
  have hcases : ∀ (j : Nat) (q : Reassembly), (setSlot s k (.receiving r)).slots[j]? = some (Slot.receiving q) →
      (j = k ∧ q = r) ∨ (j ≠ k ∧ s.slots[j]? = some (Slot.receiving q)) := by
    intro j q hq
    rw [setSlot_slots, List.getElem?_set] at hq
    split at hq
    · next hkj => split at hq <;> cases hq; exact .inl ⟨hkj.symm, rfl⟩
    · next hkj => exact .inr ⟨Ne.symm hkj, hq⟩
  refine ⟨fun j q hq => ?_, fun hm j q hq => ?_, fun hm j l q p hq hp hs => ?_⟩
  · obtain ⟨-, rfl⟩ | ⟨-, hq⟩ := hcases j q hq
    · exact hr
    · exact hreass j q hq
  · obtain ⟨rfl, -⟩ | ⟨-, hq⟩ := hcases j q hq
    · exact hzero hm
    · exact hsingle hm j q hq
  · obtain ⟨rfl, rfl⟩ | ⟨-, hq'⟩ := hcases j q hq <;> obtain ⟨rfl, rfl⟩ | ⟨-, hp'⟩ := hcases l p hp
    · rfl
    · exact (honly hm l p hp' hs.symm).symm
    · exact honly hm j q hq' hs
    · exact hpeers hm j l q p hq' hp' hs

/-! ## Reassemblies (10_state.md R37) -/

theorem reassemblyLegal_start (who : Byte) {len : Length12} {chunk : List Byte} (h1 : chunk.length = 5) (h2 : 5 < len.toNat) :
    reassemblyLegal (startReassembly who len chunk) := by
  have hlen := len.isLt
  simp only [reassemblyLegal, startReassembly, BitVec.toNat_ofNat]
  omega

theorem appendCf_out (r : Reassembly) (b : Vector Byte 6) : (appendCf r b).out.toNat = r.out.toNat - cfCount r := by
  have hout := r.out.isLt
  simp only [appendCf, BitVec.toNat_ofNat]
  omega

theorem appendCf_buf_length (r : Reassembly) (b : Vector Byte 6) : (appendCf r b).buf.length = r.buf.length + cfCount r := by
  have hcount : cfCount r ≤ 6 := Nat.min_le_right _ _
  simpa [appendCf] using hcount

/-- The bytes received and those outstanding still make up the declared length. -/
theorem appendCf_total {r : Reassembly} (hr : reassemblyLegal r) (b : Vector Byte 6) :
    (appendCf r b).buf.length + (appendCf r b).out.toNat = r.dl.toNat := by
  obtain ⟨htotal, -, -⟩ := hr
  have hcount : cfCount r ≤ r.out.toNat := Nat.min_le_left _ _
  rw [appendCf_out, appendCf_buf_length]
  omega

theorem reassemblyLegal_append {r : Reassembly} {b : Vector Byte 6} (hr : reassemblyLegal r) (ho : (appendCf r b).out ≠ 0) :
    reassemblyLegal (appendCf r b) := by
  have hpos : (appendCf r b).out.toNat ≠ 0 := fun h0 => ho (BitVec.eq_of_toNat_eq h0)
  have hlen := appendCf_buf_length r b
  obtain ⟨-, -, hbuf⟩ := id hr
  exact ⟨appendCf_total hr b, by omega, by omega⟩

/-- A reassembly with nothing outstanding holds a payload of its declared length, 5..4095 bytes. -/
theorem appendCf_complete {r : Reassembly} {b : Vector Byte 6} (hr : reassemblyLegal r) (ho : (appendCf r b).out = 0) :
    5 ≤ (appendCf r b).buf.length ∧ (appendCf r b).buf.length ≤ 4095 := by
  have hdl := r.dl.isLt
  have hlen := appendCf_buf_length r b
  have htotal := appendCf_total hr b
  obtain ⟨-, -, hbuf⟩ := hr
  rw [ho] at htotal
  simp only [BitVec.ofNat_eq_ofNat, BitVec.toNat_ofNat] at htotal
  omega

/-! ## The whole invariant -/

/-- The invariant holds after reset, whatever the parameters in their range. -/
theorem inv_resetWith {nSlots nSchemas : Nat} (h1 : 1 ≤ nSlots) (h2 : nSlots ≤ 256) (h3 : 1 ≤ nSchemas) (h4 : nSchemas ≤ 256) :
    Inv (State.resetWith nSlots nSchemas) := by
  refine ⟨?_, ?_, ?_, ?_, trivial⟩
  · simp only [registersLegal, State.resetWith]
    decide
  · intro e he w hw
    obtain rfl : e = SchemaEntry.zero := List.eq_of_mem_replicate he
    simp
  · simp [parametersLegal, State.resetWith, h1, h2, h3, h4]
  · exact slotsLegal_of_none_receiving (by simp [State.resetWith, List.getElem?_replicate])

/-- The invariant does not look at the output. -/
theorem inv_emits (h : Inv s) (es : List Event) : Inv (emits s es) := h

/-- The invariant does not look at the position or at the host's inputs. -/
theorem inv_takeInput (h : Inv s) (rest : List HostInput) : Inv (takeInput s rest) := h

theorem inv_resetEvent (h : Inv s) (rest : List HostInput) : Inv (setInput (resetEvent s) rest) := by
  obtain ⟨-, -, ⟨h1, h2, h3, h4⟩, -, -⟩ := h
  exact inv_resetWith h1 h2 h3 h4

variable {u : State} {i : Instr} {es : List Event} {c : Code} {info : Info}

/-- Reserved register bits stay 0: only CFG_WRITE writes a register, and under its mask. -/
theorem Effect.registersLegal (h : Effect s i u es c info) (hl : registersLegal s) : registersLegal u := by
  obtain ⟨h0, h1, h2⟩ := id hl
  cases h with
  | cfg0 v => exact ⟨and_mask_and_not _ _, h1, h2⟩
  | cfg1 v => exact ⟨h0, and_mask_and_not _ _, h2⟩
  | cfg2 v => exact ⟨h0, h1, and_mask_and_not _ _⟩
  | _ => exact hl

/-- Reserved schema bits stay 0: only SCH_WRITE writes an entry, and under its mask. -/
theorem Effect.schemasLegal (h : Effect s i u es c info) (hl : schemasLegal s) : schemasLegal u := by
  cases h with
  | schema k w v e he => exact schemasLegal_write hl he v
  | _ => exact hl

theorem Effect.parametersLegal (h : Effect s i u es c info) (hl : parametersLegal s) : parametersLegal u := by
  obtain ⟨hslots, hsch⟩ := h.lengths_eq
  simpa only [Machine.parametersLegal, hslots, hsch] using hl

/-- The slots stay as R37 wants them. -/
theorem Effect.slotsLegal (h : Effect s i u es c info) (hl : slotsLegal s) : slotsLegal u := by
  cases h with
  | cfg0 => exact slotsLegal_framerReset _
  | cfg1 => exact slotsLegal_framerReset _
  | discard who all => exact slotsLegal_discard hl who all
  | firstWhole => exact slotsLegal_setSlot_idle hl _
  | firstStarts _ who len chunk k _ hk h1 h2 =>
    exact slotsLegal_setSlot_receiving hl (reassemblyLegal_start who h1 h2) (slotFree_of_selectSlotFf hl hk)
  | wrongSender => exact slotsLegal_setSlot_idle hl _
  | wrongSequence => exact slotsLegal_setSlot_idle hl _
  | lastChunk => exact slotsLegal_setSlot_idle hl _
  | nextChunk _ who b k r _ hk ho =>
    obtain ⟨-, hs, -⟩ := id hk
    exact slotsLegal_setSlot_receiving hl (reassemblyLegal_append (reassemblyLegal_of_cfSlot hl hk) ho)
      (hs ▸ slotFree_of_cfSlot hl hk)
  | _ => exact hl

/-- A pending segment holds 2..4090 bytes: TP_SEND starts one with all but 5 of 7..4095 bytes, and a drain clears it. -/
theorem Effect.segmentLegal (h : Effect s i u es c info) (hl : segmentLegal s) : segmentLegal u := by
  cases h with
  | cfg0 => trivial
  | cfg1 => trivial
  | sendWhole => trivial
  | sendFirst r p h1 h2 =>
    simp only [Machine.segmentLegal, setTx_tx, List.length_drop]
    omega
  | drained => trivial
  | aborted => trivial
  | _ => exact hl

/-- Every effect keeps the invariant. -/
theorem Effect.inv (h : Effect s i u es c info) (hinv : Inv s) : Inv u := by
  obtain ⟨hregs, hsch, hparams, hslots, hseg⟩ := hinv
  exact ⟨h.registersLegal hregs, h.schemasLegal hsch, h.parametersLegal hparams, h.slotsLegal hslots, h.segmentLegal hseg⟩

/-- Every instruction keeps the invariant. -/
theorem exec_inv (hinv : Inv s) (h : exec i s = .next t) : Inv t := by
  obtain ⟨u, es, c, info, heff, rfl⟩ := effect_of_exec h
  exact inv_emits (heff.inv hinv) _

/-! ## Deliveries -/

/-- A payload delivered from a legal state has 1..4095 bytes, and came in a single, first or consecutive frame of its sender. -/
theorem Effect.delivered {who : Byte} {p : List Byte} (h : Effect s i u es c info) (hl : Machine.slotsLegal s)
    (hp : Event.rxPayload who p ∈ es) :
    (1 ≤ p.length ∧ p.length ≤ 4095) ∧ (Carries i .sf who ∨ Carries i .ff who ∨ Carries i .cf who) := by
  cases h with
  | single _ w q hi h1 h2 =>
    obtain ⟨rfl, rfl⟩ : who = w ∧ p = q := by simpa using hp
    exact ⟨⟨h1, by omega⟩, .inl hi⟩
  | firstWhole _ w chunk k hi hk h1 h2 =>
    obtain ⟨rfl, rfl⟩ : who = w ∧ p = chunk := by simpa using hp
    exact ⟨⟨h1, by omega⟩, .inr (.inl hi)⟩
  | lastChunk _ w b k r hi hk ho =>
    obtain ⟨rfl, rfl⟩ : who = w ∧ p = (appendCf r b).buf := by simpa using hp
    obtain ⟨hlow, hhigh⟩ := appendCf_complete (reassemblyLegal_of_cfSlot hl hk) ho
    exact ⟨⟨by omega, hhigh⟩, .inr (.inr hi)⟩
  | _ => simp at hp

/-- The four instructions that can deliver a payload from `who`. -/
theorem delivering_of_carries {who : Byte} (h : Carries i .sf who ∨ Carries i .ff who ∨ Carries i .cf who) :
    (∃ f, i = .tpRx f) ∨ (∃ dl b, i = .isotpSf who dl b) ∨ (∃ len b, i = .isotpFf who len b) ∨ (∃ sn b, i = .isotpCf who sn b) := by
  obtain h | h | h := h <;> cases h
  · exact .inl ⟨_, rfl⟩
  · exact .inr (.inl ⟨_, _, rfl⟩)
  · exact .inl ⟨_, rfl⟩
  · exact .inr (.inr (.inl ⟨_, _, rfl⟩))
  · exact .inl ⟨_, rfl⟩
  · exact .inr (.inr (.inr ⟨_, _, rfl⟩))

end Sys2Proof.Machine
end

section
/-! The obligations on instructions, steps and what every one of them keeps (00_scope.md). -/

namespace Sys2Proof.Machine

/-- Settles O16: each effect an instruction can have keeps each part of the invariant. -/
theorem instructionsKeepLegality : Obligations.InstructionsKeepLegality := by
  unfold Obligations.InstructionsKeepLegality
  intro i s t hinv h
  exact exec_inv hinv h

/-- Settles O17: a step is a reset, an instruction, or a Status alone. -/
theorem stepsKeepLegality : Obligations.StepsKeepLegality := by
  unfold Obligations.StepsKeepLegality
  intro s t hinv h
  obtain ⟨rest, rfl | ⟨i, h⟩ | ⟨opc, rfl⟩⟩ := step_next_cases h
  · exact inv_resetEvent hinv rest
  · exact exec_inv (inv_takeInput hinv rest) h
  · exact inv_emits (inv_takeInput hinv rest) _

/-- Settles O18: a reset makes its tables as long as they were, and no effect adds or drops an entry. -/
theorem parametersNeverChange : Obligations.ParametersNeverChange := by
  unfold Obligations.ParametersNeverChange
  intro s t h
  obtain ⟨rest, rfl | ⟨i, h⟩ | ⟨opc, rfl⟩⟩ := step_next_cases h
  · simp
  · simpa using exec_lengths_eq h
  · exact ⟨rfl, rfl⟩

/-- Settles O19: every effect is finished by its one Status. -/
theorem exactlyOneStatusComesLast : Obligations.ExactlyOneStatusComesLast := by
  unfold Obligations.ExactlyOneStatusComesLast
  intro i s
  obtain ⟨u, es, c, info, heff, h⟩ := exec_endsIn i s
  refine ⟨_, es, c, info, h, ?_, heff.no_status, heff.fits⟩
  rw [emits_outs, heff.outs_eq, List.append_assoc]

/-- Settles O26: of the effects that deliver, a single frame and a whole first frame carry few bytes, and a last chunk completes a legal
reassembly, whose declared length has 12 bits. -/
theorem deliveredPayloadLengths : Obligations.DeliveredPayloadLengths := by
  unfold Obligations.DeliveredPayloadLengths
  intro i s t who p hinv h hp
  obtain ⟨-, -, -, hslots, -⟩ := hinv
  obtain ⟨u, es, c, info, heff, rfl⟩ := effect_of_exec h
  have hmem : Event.rxPayload who p ∈ es := by simpa [heff.newEvents_eq] using hp
  obtain ⟨⟨hlow, hhigh⟩, hcarries⟩ := heff.delivered hslots hmem
  exact ⟨hlow, hhigh, delivering_of_carries hcarries⟩

/-- Settles O8: the decoder's answer picks the arm of the step that runs an instruction. -/
theorem stepRunsDecodedInstr : Obligations.StepRunsDecodedInstr := by
  unfold Obligations.StepRunsDecodedInstr
  intro s bytes rest i hin hd
  exact step_of_instr hin hd

/-- Settles O9: no input, or bytes of one of the three wrong lengths. -/
theorem stepStopsOutsideCommands : Obligations.StepStopsOutsideCommands := by
  unfold Obligations.StepStopsOutsideCommands
  exact ⟨fun s hin => step_of_no_input hin, fun s bytes rest hin hd => step_of_wrong_length hin hd⟩

end Sys2Proof.Machine
end

section
/-! SUPPORT. Registers as numbers: where a field of a word lies, what CFG_WRITE and CFG_READ do, and how STAT and PARAMS are packed
(10_state.md R24-R33). -/

namespace Sys2Proof

/-- The field of `k` bits from bit `s` on, as a number. -/
theorem extract_toNat {n : Nat} (x : BitVec n) (s k : Nat) : (x.extractLsb' s k).toNat = x.toNat / 2 ^ s % 2 ^ k := by
  rw [BitVec.extractLsb'_toNat, Nat.shiftRight_eq_div_pow]

/-- The lowest `k` bits, as a number. -/
theorem extract_low_toNat {n : Nat} (x : BitVec n) (k : Nat) : (x.extractLsb' 0 k).toNat = x.toNat % 2 ^ k := by
  rw [extract_toNat, pow_zero, Nat.div_one]

/-- A field is 0 when its number is. -/
theorem extract_eq_zero_iff {n : Nat} (x : BitVec n) (s k : Nat) : x.extractLsb' s k = 0 ↔ x.toNat / 2 ^ s % 2 ^ k = 0 := by
  rw [← BitVec.toNat_inj, extract_toNat]
  simp

/-- The lowest bit is set in an odd number. -/
theorem getLsbD_zero_iff_odd {n : Nat} (x : BitVec n) : x.getLsbD 0 = true ↔ x.toNat % 2 = 1 := by
  rw [← BitVec.testBit_toNat, Nat.testBit_zero, decide_eq_true_iff]

/-- A register packed from a number at bit `k` and one below it. -/
theorem toNat_packed {a b k : Nat} (hk : k ≤ 32) (ha : a < 2 ^ (32 - k)) (hb : b < 2 ^ k) :
    (BitVec.ofNat 32 a <<< k ||| BitVec.ofNat 32 b).toNat = a * 2 ^ k + b := by
  have hsplit : 2 ^ (32 - k) * 2 ^ k = 2 ^ 32 := by rw [← pow_add, Nat.sub_add_cancel hk]
  have hhigh : a * 2 ^ k < 2 ^ 32 := hsplit ▸ Nat.mul_lt_mul_of_pos_right ha (Nat.two_pow_pos k)
  have ha' : a < 2 ^ 32 := lt_of_le_of_lt (Nat.le_mul_of_pos_right a (Nat.two_pow_pos k)) hhigh
  have hb' : b < 2 ^ 32 := lt_of_lt_of_le hb (Nat.pow_le_pow_right (by omega) hk)
  rw [BitVec.toNat_or, BitVec.toNat_shiftLeft, BitVec.toNat_ofNat, BitVec.toNat_ofNat, Nat.mod_eq_of_lt ha', Nat.mod_eq_of_lt hb',
    Nat.mod_eq_of_lt (by rwa [Nat.shiftLeft_eq]), ← Nat.shiftLeft_add_eq_or_of_lt hb, Nat.shiftLeft_eq]

end Sys2Proof

namespace Sys2Proof.Machine

variable {s t u : State} {i : Instr} {es : List Event} {c : Code} {info : Info}

/-! ## CFG_WRITE and CFG_READ -/

theorem exec_cfgWrite_cfg0 (s : State) (v : Word32) :
    exec (.cfgWrite 0 v) s = done (framerReset (setCfg0 s (v &&& cfg0Mask))) [] := rfl

theorem exec_cfgWrite_cfg1 (s : State) (v : Word32) :
    exec (.cfgWrite 1 v) s = done (framerReset (setCfg1 s (v &&& cfg1Mask))) [] := rfl

theorem exec_cfgWrite_cfg2 (s : State) (v : Word32) : exec (.cfgWrite 2 v) s = done (setCfg2 s (v &&& cfg2Mask)) [] := rfl

/-- No register from 3 on can be written: STAT, PARAMS and those that do not exist (43_config.md R241). -/
theorem exec_cfgWrite_of_three_le {n : Byte} (h : 3 ≤ n.toNat) (s : State) (v : Word32) :
    exec (.cfgWrite n v) s = raise s .badRegister (.reg n) := by
  have hne : n ≠ 0 ∧ n ≠ 1 ∧ n ≠ 2 := by refine ⟨?_, ?_, ?_⟩ <;> rintro rfl <;> simp at h
  obtain ⟨h0, h1, h2⟩ := hne
  change execCfgWrite n v s = _
  rw [execCfgWrite, if_neg h0, if_neg h1, if_neg h2]

/-- Reading a register that exists gives its value. -/
theorem exec_cfgRead {n : Byte} {w : Word32} (h : registerValue s n = some w) :
    exec (.cfgRead n) s = done s [.result (.reg w)] := by
  change execCfgRead n s = _
  rw [execCfgRead, h]

/-- No register looks at the output. -/
@[simp] theorem registerValue_emits (s : State) (es : List Event) (n : Byte) : registerValue (emits s es) n = registerValue s n := rfl

/-- A write that leaves value `w` in register `n`, and the read after it. -/
theorem runAll_cfgWrite_cfgRead {n : Byte} {v w : Word32} (hw : exec (.cfgWrite n v) s = done u []) (ho : u.outs = s.outs)
    (hr : registerValue u n = some w) : ∃ t, runAll [.cfgWrite n v, .cfgRead n] s = some t ∧
      t.outs = s.outs ++ [.status .ok .empty, .result (.reg w), .status .ok .empty] := by
  refine ⟨emits (emits u [.status .ok .empty]) [.result (.reg w), .status .ok .empty], ?_, by simp [ho]⟩
  rw [runAll_cons hw, runAll_cons (exec_cfgRead (by simpa using hr)), runAll_nil]
  rfl

/-! ## STAT and PARAMS (10_state.md R27, R28) -/

/-- The number of slots in use never exceeds the number of slots. -/
theorem rxBusy_le (s : State) : rxBusy s ≤ s.slots.length := List.countP_le_length

/-- A slot is in use when it is not IDLE. -/
theorem rxBusy_eq (s : State) : rxBusy s = s.slots.countP (fun v => v != .idle) := by
  refine List.countP_congr fun v _ => ?_
  cases v <;> simp [isReceiving]

theorem txPending_iff (s : State) : txPending s = true ↔ ∃ r rem sn, s.tx = .pending r rem sn := by
  unfold txPending
  cases s.tx <;> simp

/-- STAT holds RXBUSY from bit 8 on, and TXPEND in bit 0. -/
theorem statValue_toNat (hl : parametersLegal s) : (statValue s).toNat = rxBusy s * 2 ^ 8 + (txPending s).toNat := by
  obtain ⟨-, hslots, -, -⟩ := hl
  have hbusy := rxBusy_le s
  have hflag : (if txPending s then 1 else 0 : Word32) = BitVec.ofNat 32 (txPending s).toNat := by cases txPending s <;> rfl
  rw [statValue, hflag]
  exact toNat_packed (by omega) (by omega) (by have := Bool.toNat_le (txPending s); omega)

/-- PARAMS holds N_SCHEMAS from bit 16 on, and N_SLOTS below. -/
theorem paramsValue_toNat (hl : parametersLegal s) : (paramsValue s).toNat = s.sch.length * 2 ^ 16 + s.slots.length := by
  obtain ⟨-, hslots, -, hsch⟩ := hl
  exact toNat_packed (by omega) (by omega) (by omega)

/-- TXPEND, RXBUSY and the reserved bits of STAT. -/
theorem statValue_fields (hl : parametersLegal s) :
    ((statValue s).getLsbD 0 = true ↔ txPending s = true) ∧ (statValue s).extractLsb' 1 7 = 0 ∧
    ((statValue s).extractLsb' 8 9).toNat = rxBusy s ∧ (statValue s).extractLsb' 17 15 = 0 := by
  have hvalue := statValue_toNat hl
  obtain ⟨-, hslots, -, -⟩ := hl
  have hbusy := rxBusy_le s
  rw [getLsbD_zero_iff_odd, extract_eq_zero_iff, extract_toNat, extract_eq_zero_iff, hvalue, ← Bool.toNat_eq_one]
  have hflag := Bool.toNat_le (txPending s)
  refine ⟨?_, ?_, ?_, ?_⟩ <;> omega

/-- N_SLOTS, N_SCHEMAS and the reserved bits of PARAMS. -/
theorem paramsValue_fields (hl : parametersLegal s) :
    ((paramsValue s).extractLsb' 0 9).toNat = s.slots.length ∧ (paramsValue s).extractLsb' 9 7 = 0 ∧
    ((paramsValue s).extractLsb' 16 9).toNat = s.sch.length ∧ (paramsValue s).extractLsb' 25 7 = 0 := by
  have hvalue := paramsValue_toNat hl
  obtain ⟨-, hslots, -, hsch⟩ := hl
  rw [extract_low_toNat, extract_eq_zero_iff, extract_toNat, extract_eq_zero_iff, hvalue]
  refine ⟨?_, ?_, ?_, ?_⟩ <;> omega

/-! ## Reset (10_state.md R43) -/

/-- The registers hold no reserved bit after reset, whatever the parameters. -/
theorem registersLegal_resetWith (nSlots nSchemas : Nat) : registersLegal (State.resetWith nSlots nSchemas) := by
  simp only [registersLegal, State.resetWith]
  decide

/-- The fields of the three configuration registers after reset, whatever the parameters. -/
theorem registerFields_resetWith (nSlots nSchemas : Nat) :
    let s := State.resetWith nSlots nSchemas
    enabled s = false ∧ perPeer s = true ∧ strict s = false ∧ localAddr s = 0 ∧ pad s = 0 ∧
    baseId s = 0x600 ∧ fcBs s = 0 ∧ fcStmin s = 1 := by
  simp only [enabled, perPeer, strict, localAddr, pad, baseId, fcBs, fcStmin, State.resetWith]
  decide

/-! ## The command position (10_state.md R21) -/

/-- No effect moves the position: the fetch has done so. -/
theorem Effect.pos_eq (h : Effect s i u es c info) : u.pos = s.pos := by
  cases h <;> rfl

/-- No effect takes an input of the host. -/
theorem Effect.input_eq (h : Effect s i u es c info) : u.input = s.input := by
  cases h <;> rfl

theorem exec_pos_input_eq (h : exec i s = .next t) : t.pos = s.pos ∧ t.input = s.input := by
  obtain ⟨u, es, c, info, heff, rfl⟩ := effect_of_exec h
  exact ⟨heff.pos_eq, heff.input_eq⟩

/-- A command's step runs an instruction after the fetch, or ends in ILLEGAL_COMMAND after it (30_encoding.md R83, R84). -/
theorem step_command_cases {bytes : List Byte} {rest : List HostInput} (hin : s.input = .command bytes :: rest)
    (h : step s = .next t) : (∃ i, exec i (takeInput s rest) = .next t) ∨
      ∃ opc, t = emits (takeInput s rest) [.status .illegalCommand (.opc opc)] := by
  simp only [step, hin] at h
  split at h
  · exact .inl ⟨_, h⟩
  all_goals cases h
  all_goals exact .inr ⟨_, rfl⟩

end Sys2Proof.Machine
end

section
/-! The obligations on the state and its registers (10_state.md). -/

namespace Sys2Proof.Machine

/-- Settles O30: STAT and PARAMS are two numbers packed into a word, each too small to reach into the next field. -/
theorem statusRegisterLayout : Obligations.StatusRegisterLayout := by
  unfold Obligations.StatusRegisterLayout
  intro s hl
  obtain ⟨hpend, hres1, hbusy, hres2⟩ := statValue_fields hl
  obtain ⟨hslots, hres3, hsch, hres4⟩ := paramsValue_fields hl
  exact ⟨statValue s, paramsValue s, exec_cfgRead rfl, hpend.trans (txPending_iff s), hres1, hbusy.trans (rxBusy_eq s), hres2,
    exec_cfgRead rfl, hslots, hres3, hsch, hres4⟩

/-- Settles O11: the fetch takes one input and advances the position by one, and nothing after it touches either. -/
theorem positionAdvancesByOne : Obligations.PositionAdvancesByOne := by
  unfold Obligations.PositionAdvancesByOne
  intro s t bytes rest hin h
  obtain ⟨i, h⟩ | ⟨opc, rfl⟩ := step_command_cases hin h
  · exact exec_pos_input_eq h
  · exact ⟨rfl, rfl⟩

/-- Settles O13: the fields of the three reset words, and two tables of copies of one entry. -/
theorem resetValues : Obligations.ResetValues := by
  unfold Obligations.ResetValues
  intro nSlots nSchemas s
  have hentries : ∀ e ∈ s.sch, ∀ w, w < 18 → wordAt e w = 0 := by
    intro e he w _
    obtain rfl : e = SchemaEntry.zero := List.eq_of_mem_replicate he
    exact wordAt_zero w
  obtain ⟨hen, hmode, hpol, haddr, hpad, hbase, hbs, hstmin⟩ := registerFields_resetWith nSlots nSchemas
  exact ⟨hen, hmode, hpol, haddr, hpad, hbase, hbs, hstmin, registersLegal_resetWith nSlots nSchemas,
    List.length_replicate, hentries, List.length_replicate, fun v hv => List.eq_of_mem_replicate hv, rfl, rfl⟩

/-- Settles O14: the reset state of parameters in their range is legal. -/
theorem resetEstablishesLegality : Obligations.ResetEstablishesLegality := by
  unfold Obligations.ResetEstablishesLegality
  intro nSlots nSchemas h1 h2 h3 h4
  exact inv_resetWith h1 h2 h3 h4

/-- Settles O27: a field of several bits is a quotient and a remainder of its word, a flag is one bit of it. -/
theorem fieldLayout : Obligations.FieldLayout := by
  unfold Obligations.FieldLayout
  refine ⟨fun s => ?_, fun e => ?_⟩
  · exact ⟨rfl, rfl, rfl, extract_toNat _ 8 8, extract_toNat _ 16 8, extract_low_toNat _ 11, extract_low_toNat _ 8, extract_toNat _ 8 8⟩
  · exact ⟨rfl, rfl, rfl, extract_toNat _ 3 4, extract_low_toNat _ 29, fun i _ => ⟨extract_low_toNat _ 4, rfl, rfl, rfl, rfl⟩⟩

/-- Settles O31: each register is written under the mask of its writable bits, and read as it stands. -/
theorem registerReadsBackWithoutReservedBits : Obligations.RegisterReadsBackWithoutReservedBits := by
  unfold Obligations.RegisterReadsBackWithoutReservedBits
  intro s v
  refine ⟨?_, ?_, ?_, ?_, ?_⟩
  · exact runAll_cfgWrite_cfgRead (exec_cfgWrite_cfg0 s v) rfl rfl
  · exact runAll_cfgWrite_cfgRead (exec_cfgWrite_cfg1 s v) rfl rfl
  · exact runAll_cfgWrite_cfgRead (exec_cfgWrite_cfg2 s v) rfl rfl
  · exact exec_cfgWrite_of_three_le (by decide) s v
  · exact exec_cfgWrite_of_three_le (by decide) s v

end Sys2Proof.Machine
end

section
/-! SUPPORT. What a reading command looks at, and which instructions can write which part of the state (20_memory.md R68). -/

namespace Sys2Proof.Machine

variable {s u : State} {i : Instr} {es : List Event} {c : Code} {info : Info}

/-! ## Answering alike in two states -/

/-- Two outcomes, of one command run in `s` and in `u`: each state is left alone, and both emit the same events. -/
def AnswersAlike (s u : State) (o o' : Host.Outcome State Fault Refusal) : Prop :=
  ∃ es, o = .next (emits s es) ∧ o' = .next (emits u es)

theorem answersAlike_raise (s u : State) (c : Code) (info : Info) : AnswersAlike s u (raise s c info) (raise u c info) :=
  ⟨_, rfl, rfl⟩

theorem answersAlike_done (s u : State) (es : List Event) : AnswersAlike s u (done s es) (done u es) :=
  ⟨_, rfl, rfl⟩

/-- A check that both states decide the same way. -/
theorem AnswersAlike.ite {p : Prop} [Decidable p] {a a' b b' : Host.Outcome State Fault Refusal} (ha : AnswersAlike s u a a')
    (hb : AnswersAlike s u b b') : AnswersAlike s u (if p then a else b) (if p then a' else b') := by
  split
  · exact ha
  · exact hb

/-- The state after a command tells which events it emitted. -/
@[simp] theorem emits_inj (s : State) (es ds : List Event) : emits s es = emits s ds ↔ es = ds := by
  refine ⟨fun h => ?_, fun h => h ▸ rfl⟩
  exact List.append_cancel_left (congrArg State.outs h)

/-! ## The reading commands, each with the state it looks at -/

theorem validEntry_eq_of_sch (h : s.sch = u.sch) : validEntry s = validEntry u := by
  funext k
  rw [validEntry, validEntry, h]

theorem matchAt_eq_of_sch (h : s.sch = u.sch) : matchAt s = matchAt u := by
  funext f j
  rw [matchAt, matchAt, validEntry_eq_of_sch h]

theorem execCodecDecode_alike (h : s.sch = u.sch) (k : Byte) (f : RawFrame) :
    AnswersAlike s u (execCodecDecode k f s) (execCodecDecode k f u) := by
  rw [execCodecDecode, execCodecDecode, validEntry_eq_of_sch h]
  cases validEntry u k.toNat with
  | none => exact answersAlike_raise s u _ _
  | some e =>
    refine .ite (answersAlike_raise s u _ _) ?_
    cases matchEntry k.toNat e f with
    | err c info => exact answersAlike_raise s u c info
    | ok r => exact answersAlike_done s u _

theorem execCodecEncode_alike (h : s.sch = u.sch) (k sender m : Byte) (v : Vector Word64 8) :
    AnswersAlike s u (execCodecEncode k sender m v s) (execCodecEncode k sender m v u) := by
  rw [execCodecEncode, execCodecEncode, validEntry_eq_of_sch h]
  cases validEntry u k.toNat with
  | none => exact answersAlike_raise s u _ _
  | some e => exact answersAlike_done s u _

theorem execCodecClassify_alike (h : s.sch = u.sch) (k n : Byte) (f : RawFrame) :
    AnswersAlike s u (execCodecClassify k n f s) (execCodecClassify k n f u) := by
  rw [execCodecClassify, execCodecClassify, validEntry_eq_of_sch h, matchAt_eq_of_sch h]
  cases (classifyRange k n).find? (fun j => (validEntry u j).isNone) with
  | some j => exact answersAlike_raise s u _ _
  | none =>
    refine .ite (answersAlike_raise s u _ _) ?_
    cases (classifyRange k n).findSome? (matchAt u f) with
    | some r => exact answersAlike_done s u _
    | none => exact answersAlike_raise s u _ _

theorem execCfgRead_alike {n : Byte} (h : registerValue s n = registerValue u n) :
    AnswersAlike s u (execCfgRead n s) (execCfgRead n u) := by
  rw [execCfgRead, execCfgRead, h]
  cases registerValue u n with
  | some v => exact answersAlike_done s u _
  | none => exact answersAlike_raise s u _ _

theorem execSchRead_alike (h : s.sch = u.sch) (k w : Byte) : AnswersAlike s u (execSchRead k w s) (execSchRead k w u) := by
  rw [execSchRead, execSchRead, h]
  cases u.sch[k.toNat]? with
  | none => exact answersAlike_raise s u _ _
  | some e => exact .ite (answersAlike_raise s u _ _) (answersAlike_done s u _)

/-- TP_CLASSIFY looks at no state at all (41_framer_rx.md R188). -/
theorem execTpClassify_alike (s u : State) (f : RawFrame) : AnswersAlike s u (execTpClassify f s) (execTpClassify f u) := by
  rw [execTpClassify, execTpClassify]
  refine .ite (answersAlike_raise s u _ _) (.ite (answersAlike_raise s u _ _) ?_)
  cases classifyPci f.data with
  | err c info => exact answersAlike_raise s u c info
  | _ => exact answersAlike_done s u _

/-- A codec command looks at the schema table alone (40_codec.md R120, R137). -/
theorem exec_alike_of_isCodec (hi : isCodec i = true) (h : s.sch = u.sch) : AnswersAlike s u (exec i s) (exec i u) := by
  cases i with
  | codecDecode k f => exact execCodecDecode_alike h k f
  | codecEncode k sender m v => exact execCodecEncode_alike h k sender m v
  | codecClassify k n f => exact execCodecClassify_alike h k n f
  | _ => cases hi

/-- A reading command does not look at what has been emitted. -/
theorem exec_alike_of_readsOnly (hi : readsOnly i = true) (s : State) (es : List Event) :
    AnswersAlike s (emits s es) (exec i s) (exec i (emits s es)) := by
  cases i with
  | codecDecode => exact exec_alike_of_isCodec rfl rfl
  | codecEncode => exact exec_alike_of_isCodec rfl rfl
  | codecClassify => exact exec_alike_of_isCodec rfl rfl
  | tpClassify f => exact execTpClassify_alike s _ f
  | cfgRead n => exact execCfgRead_alike (registerValue_emits s es n).symm
  | schRead k w => exact execSchRead_alike (emits_sch s es).symm k w
  | _ => cases hi

/-! ## The instructions that can write each part of the state -/

/-- The instructions that can write a slot: two register writes (43_config.md R243), TP_RX, TP_DISCARD, and the frame kinds that
start and continue a reassembly. -/
def WritesSlots (i : Instr) : Prop :=
  (∃ v, i = .cfgWrite 0 v) ∨ (∃ v, i = .cfgWrite 1 v) ∨ (∃ f, i = .tpRx f) ∨ (∃ who all, i = .tpDiscard who all) ∨
    (∃ who len b, i = .isotpFf who len b) ∨ (∃ who sn b, i = .isotpCf who sn b)

/-- The instructions that can write the transmit segment: two register writes (43_config.md R243), TP_RX, TP_SEND and flow control. -/
def WritesTx (i : Instr) : Prop :=
  (∃ v, i = .cfgWrite 0 v) ∨ (∃ v, i = .cfgWrite 1 v) ∨ (∃ f, i = .tpRx f) ∨ (∃ r p, i = .tpSend r p) ∨
    (∃ who fs bs st p, i = .isotpFc who fs bs st p)

theorem writesSlots_of_carries_ff {who : Byte} (h : Carries i .ff who) : WritesSlots i := by
  cases h with
  | tpRx f => exact .inr (.inr (.inl ⟨f, rfl⟩))
  | isotpFf who len b => exact .inr (.inr (.inr (.inr (.inl ⟨who, len, b, rfl⟩))))

theorem writesSlots_of_carries_cf {who : Byte} (h : Carries i .cf who) : WritesSlots i := by
  cases h with
  | tpRx f => exact .inr (.inr (.inl ⟨f, rfl⟩))
  | isotpCf who sn b => exact .inr (.inr (.inr (.inr (.inr ⟨who, sn, b, rfl⟩))))

theorem writesTx_of_carries_fc {who : Byte} (h : Carries i .fc who) : WritesTx i := by
  cases h with
  | tpRx f => exact .inr (.inr (.inl ⟨f, rfl⟩))
  | isotpFc who fs bs st p => exact .inr (.inr (.inr (.inr ⟨who, fs, bs, st, p, rfl⟩)))

theorem Effect.cfgWrite_of_cfg0_ne (h : Effect s i u es c info) (hne : u.cfg0 ≠ s.cfg0) : ∃ v, i = .cfgWrite 0 v := by
  cases h with
  | cfg0 v => exact ⟨v, rfl⟩
  | _ => exact absurd rfl hne

theorem Effect.cfgWrite_of_cfg1_ne (h : Effect s i u es c info) (hne : u.cfg1 ≠ s.cfg1) : ∃ v, i = .cfgWrite 1 v := by
  cases h with
  | cfg1 v => exact ⟨v, rfl⟩
  | _ => exact absurd rfl hne

theorem Effect.cfgWrite_of_cfg2_ne (h : Effect s i u es c info) (hne : u.cfg2 ≠ s.cfg2) : ∃ v, i = .cfgWrite 2 v := by
  cases h with
  | cfg2 v => exact ⟨v, rfl⟩
  | _ => exact absurd rfl hne

theorem Effect.schWrite_of_sch_ne (h : Effect s i u es c info) (hne : u.sch ≠ s.sch) : ∃ k w v, i = .schWrite k w v := by
  cases h with
  | schema k w v => exact ⟨k, w, v, rfl⟩
  | _ => exact absurd rfl hne

theorem Effect.writesSlots_of_slots_ne (h : Effect s i u es c info) (hne : u.slots ≠ s.slots) : WritesSlots i := by
  cases h with
  | cfg0 v => exact .inl ⟨v, rfl⟩
  | cfg1 v => exact .inr (.inl ⟨v, rfl⟩)
  | discard who all => exact .inr (.inr (.inr (.inl ⟨who, all, rfl⟩)))
  | firstWhole _ _ _ _ hi => exact writesSlots_of_carries_ff hi
  | firstStarts _ _ _ _ _ hi => exact writesSlots_of_carries_ff hi
  | wrongSender _ _ _ hi => exact writesSlots_of_carries_cf hi
  | wrongSequence _ _ _ _ _ hi => exact writesSlots_of_carries_cf hi
  | lastChunk _ _ _ _ _ hi => exact writesSlots_of_carries_cf hi
  | nextChunk _ _ _ _ _ hi => exact writesSlots_of_carries_cf hi
  | _ => exact absurd rfl hne

theorem Effect.writesTx_of_tx_ne (h : Effect s i u es c info) (hne : u.tx ≠ s.tx) : WritesTx i := by
  cases h with
  | cfg0 v => exact .inl ⟨v, rfl⟩
  | cfg1 v => exact .inr (.inl ⟨v, rfl⟩)
  | sendWhole r p => exact .inr (.inr (.inr (.inl ⟨r, p, rfl⟩)))
  | sendFirst r p => exact .inr (.inr (.inr (.inl ⟨r, p, rfl⟩)))
  | drained _ _ _ _ hi => exact writesTx_of_carries_fc hi
  | aborted _ _ _ _ hi => exact writesTx_of_carries_fc hi
  | _ => exact absurd rfl hne

end Sys2Proof.Machine
end

section
/-! The obligations on what reads and what writes the state (20_memory.md). -/

namespace Sys2Proof.Machine

/-- Settles O21: a reading command leaves its state alone and does not look at the output, so the second run answers as the first. -/
theorem readingCommandsChangeNothing : Obligations.ReadingCommandsChangeNothing := by
  unfold Obligations.ReadingCommandsChangeNothing
  intro i s hi
  obtain ⟨es, hfirst, -⟩ := exec_alike_of_readsOnly hi s []
  obtain ⟨ds, hagain, hsecond⟩ := exec_alike_of_readsOnly hi s es
  obtain rfl : es = ds := by simpa using hfirst.symm.trans hagain
  exact ⟨es, hfirst, hsecond⟩

/-- Settles O24: each effect that changes a part of the state belongs to one of the instructions named for that part. -/
theorem onlyNamedCommandsWrite : Obligations.OnlyNamedCommandsWrite := by
  unfold Obligations.OnlyNamedCommandsWrite
  intro i s t h
  have hkept := exec_pos_input_eq h
  obtain ⟨u, es, c, info, heff, rfl⟩ := effect_of_exec h
  exact ⟨heff.cfgWrite_of_cfg0_ne, heff.cfgWrite_of_cfg1_ne, heff.cfgWrite_of_cfg2_ne, heff.schWrite_of_sch_ne,
    heff.writesSlots_of_slots_ne, heff.writesTx_of_tx_ne, hkept⟩

end Sys2Proof.Machine
end

section
/-! SUPPORT. The encoding: what a legal header is, and for each operand block which instruction its bytes decode to (30_encoding.md R80-R89). -/

namespace Sys2Proof

/-! ## Vectors and their elements -/

section Vectors
variable {α : Type}

theorem vector4_eta (v : Vector α 4) : #v[v[0], v[1], v[2], v[3]] = v := by
  ext i hi
  interval_cases i <;> rfl

theorem vector5_eta (v : Vector α 5) : #v[v[0], v[1], v[2], v[3], v[4]] = v := by
  ext i hi
  interval_cases i <;> rfl

theorem vector6_eta (v : Vector α 6) : #v[v[0], v[1], v[2], v[3], v[4], v[5]] = v := by
  ext i hi
  interval_cases i <;> rfl

theorem vector8_eta (v : Vector α 8) : #v[v[0], v[1], v[2], v[3], v[4], v[5], v[6], v[7]] = v := by
  ext i hi
  interval_cases i <;> rfl

theorem vector8_toList (v : Vector α 8) : v.toList = [v[0], v[1], v[2], v[3], v[4], v[5], v[6], v[7]] := by
  conv_lhs => rw [← vector8_eta v]
  rfl

end Vectors

/-! ## Legal headers (R82, R83) -/

theorem header_eq_le32 (opc a b : Byte) : header opc a b = le32 opc a b 0 := rfl

theorem le32_inj {a0 a1 a2 a3 b0 b1 b2 b3 : Byte} :
    le32 a0 a1 a2 a3 = le32 b0 b1 b2 b3 ↔ a0 = b0 ∧ a1 = b1 ∧ a2 = b2 ∧ a3 = b3 := by
  constructor
  · intro h
    simpa [bytes32_le32] using congrArg bytes32 h
  · rintro ⟨rfl, rfl, rfl, rfl⟩
    rfl

theorem le32_and (a0 a1 a2 a3 b0 b1 b2 b3 : Byte) :
    le32 a0 a1 a2 a3 &&& le32 b0 b1 b2 b3 = le32 (a0 &&& b0) (a1 &&& b1) (a2 &&& b2) (a3 &&& b3) := by
  unfold le32
  exact (BitVec.and_append ..).trans (by rw [BitVec.and_append, BitVec.and_append])

/-- A word as its four bytes. -/
theorem le32_fields (h : Word32) : le32 (headerOpc h) (headerA h) (headerB h) (h.extractLsb' 24 8) = h := le32_bytes h

/-- A word passes a row's check when its OPC is the row's, its top byte is 0, and A and B are 0 under the row's mask. -/
theorem and_mask_eq_iff (h : Word32) (opc ma mb : Byte) :
    h &&& le32 0xFF ma mb 0xFF = header opc 0 0 ↔
      h = header opc (headerA h) (headerB h) ∧ headerA h &&& ma = 0 ∧ headerB h &&& mb = 0 := by
  have hones (x : Byte) : x &&& 0xFF = x := BitVec.and_allOnes
  conv_lhs => rw [← le32_fields h]
  conv_rhs => lhs; lhs; rw [← le32_fields h]
  simp only [header_eq_le32, le32_and, le32_inj, hones]
  tauto

theorem legal_a_b_iff {h : Word32} {opc : Byte} : h &&& 0xFF0000FF = header opc 0 0 ↔ ∃ a b, h = header opc a b := by
  rw [show (0xFF0000FF : Word32) = le32 0xFF 0 0 0xFF from rfl, and_mask_eq_iff]
  constructor
  · rintro ⟨h, -⟩
    exact ⟨_, _, h⟩
  · rintro ⟨a, b, rfl⟩
    simp

theorem legal_a_iff {h : Word32} {opc : Byte} : h &&& 0xFFFF00FF = header opc 0 0 ↔ ∃ a, h = header opc a 0 := by
  rw [show (0xFFFF00FF : Word32) = le32 0xFF 0 0xFF 0xFF from rfl, and_mask_eq_iff]
  constructor
  · rintro ⟨h, -, hb⟩
    rw [show (0xFF : Byte) = BitVec.allOnes 8 from rfl, BitVec.and_allOnes] at hb
    exact ⟨_, hb ▸ h⟩
  · rintro ⟨a, rfl⟩
    simp

theorem legal_opc_iff {h : Word32} {opc : Byte} : h &&& 0xFFFFFFFF = header opc 0 0 ↔ h = header opc 0 0 := by
  rw [show (0xFFFFFFFF : Word32) = BitVec.allOnes 32 from rfl, BitVec.and_allOnes]

/-- Of TP_DISCARD's B only bit 0 may be set. -/
theorem legal_a_flag_iff {h : Word32} {opc : Byte} :
    h &&& 0xFFFE00FF = header opc 0 0 ↔ ∃ a, ∃ x : Bool, h = header opc a (if x then 1 else 0) := by
  have hflag : ∀ b : Byte, b &&& 0xFE = 0 → b = if b.getLsbD 0 then 1 else 0 := by decide
  rw [show (0xFFFE00FF : Word32) = le32 0xFF 0 0xFE 0xFF from rfl, and_mask_eq_iff]
  constructor
  · rintro ⟨h, -, hb⟩
    exact ⟨_, _, hflag _ hb ▸ h⟩
  · rintro ⟨a, x, rfl⟩
    cases x <;> simp

/-! ## The header checks -/

variable {h : Word32} {ops : List Byte} {opc a b : Byte} {row : OpcodeRow} {i : Instr}

/-- No two rows share an opcode. -/
theorem opcodeRow_of_mem : ∀ row ∈ opcodeRows, opcodeRow row.opc = some row := by decide

theorem opcodeRow_some (hr : opcodeRow opc = some row) : row ∈ opcodeRows ∧ row.opc = opc :=
  ⟨List.mem_of_find?_eq_some hr, by simpa using List.find?_some hr⟩

theorem opcodeRow_none (hr : opc ∉ opcodeRows.map OpcodeRow.opc) : opcodeRow opc = none := by
  rw [opcodeRow, List.find?_eq_none]
  intro row hrow ho
  exact hr (List.mem_map.mpr ⟨row, hrow, by simpa using ho⟩)

theorem matchBits_of_mem : ∀ row ∈ opcodeRows, row.maskBits.extractLsb' 0 8 = 0xFF ∧ row.matchBits = header row.opc 0 0 := by
  decide

/-- A header that passes a row's check has the row's opcode. -/
theorem headerOpc_of_legal (hrow : row ∈ opcodeRows) (hl : h &&& row.maskBits = row.matchBits) : headerOpc h = row.opc := by
  obtain ⟨hmask, hmatch⟩ := matchBits_of_mem row hrow
  have hlow : headerOpc (h &&& row.maskBits) = headerOpc h &&& 0xFF := by
    rw [← hmask, headerOpc, headerOpc, BitVec.extractLsb'_and]
  rw [hl, hmatch, headerOpc_header] at hlow
  exact (hlow.trans BitVec.and_allOnes).symm

theorem decodeHeader_of_unknown (hu : headerOpc h ∉ opcodeRows.map OpcodeRow.opc) :
    decodeHeader h ops = .reject (.unknownOpcode (headerOpc h)) := by
  rw [decodeHeader, opcodeRow_none hu]

theorem decodeHeader_of_reserved (hrow : row ∈ opcodeRows) (ho : headerOpc h = row.opc) (hr : h &&& row.maskBits ≠ row.matchBits) :
    decodeHeader h ops = .reject (.reservedHeader (headerOpc h)) := by
  rw [decodeHeader, ho, opcodeRow_of_mem row hrow]
  exact if_pos hr

theorem decodeHeader_of_legal (hrow : row ∈ opcodeRows) (hl : h &&& row.maskBits = row.matchBits) :
    decodeHeader h ops = decodeOperands row.opc (headerA h) (headerB h) ops := by
  rw [decodeHeader, headerOpc_of_legal hrow hl, opcodeRow_of_mem row hrow]
  exact if_neg (not_not.mpr hl)

/-- A header whose operand block is looked at has passed its row's check. -/
theorem decodeHeader_instr (hd : decodeHeader h ops = .instr i) : ∃ row ∈ opcodeRows,
    h &&& row.maskBits = header row.opc 0 0 ∧ decodeOperands row.opc (headerA h) (headerB h) ops = .instr i := by
  cases hr : opcodeRow (headerOpc h) with
  | none => simp [decodeHeader, hr] at hd
  | some row =>
    obtain ⟨hrow, ho⟩ := opcodeRow_some hr
    by_cases hl : h &&& row.maskBits = row.matchBits
    · exact ⟨row, hrow, hl.trans (matchBits_of_mem row hrow).2, (decodeHeader_of_legal hrow hl).symm.trans hd⟩
    · rw [decodeHeader_of_reserved hrow ho.symm hl] at hd
      cases hd

/-- Bytes that decode begin with a header. -/
theorem decode_instr {bs : List Byte} (hd : decode bs = .instr i) : ∃ h ops, bs = bytes32 h ++ ops ∧ decodeHeader h ops = .instr i := by
  unfold decode at hd
  split at hd
  · exact ⟨_, _, by simp [bytes32_le32], hd⟩
  · cases hd

/-! ## Operand blocks: the bytes and what they decode to (R85-R89) -/

theorem frameWordsReserved_iff (fw0 fw1 : Word32) :
    frameWordsReserved fw0 fw1 = true ↔ fw0.extractLsb' 30 2 ≠ 0 ∨ fw1.extractLsb' 4 28 ≠ 0 := by
  simp [frameWordsReserved]

/-- The two words of a FRAME operand with no reserved bit are those of the frame they describe. -/
theorem frameWords_frameOfWords {fw0 fw1 : Word32} (d : Vector Byte 8) (hr : frameWordsReserved fw0 fw1 = false) :
    frameWord0 (frameOfWords fw0 fw1 d) = fw0 ∧ frameWord1 (frameOfWords fw0 fw1 d) = fw1 := by
  have hres : fw0.extractLsb' 30 2 = 0 ∧ fw1.extractLsb' 4 28 = 0 := by simpa [frameWordsReserved] using hr
  have hext : BitVec.ofBool (fw0.getLsbD 29) = fw0.extractLsb' 29 1 := by
    ext j hj
    obtain rfl : j = 0 := by omega
    simp
  constructor
  · simp only [frameWord0, frameOfWords, hext]
    rw [show (0#2) = fw0.extractLsb' 30 2 from hres.1.symm, extract_glue fw0 29 2 1, extract_glue fw0 0 (2 + 1) 29]
    exact extract_self fw0
  · simp only [frameWord1, frameOfWords]
    rw [show (0#28) = fw1.extractLsb' 4 28 from hres.2.symm, extract_glue fw1 0 28 4]
    exact extract_self fw1

/-- A FRAME operand block of the right length: refused for a reserved bit, or the frame of its fields. -/
theorem decodeFrameOperand_words (opc : Byte) (fw0 fw1 : Word32) (d : Vector Byte 8) (mk : RawFrame → Instr) :
    decodeFrameOperand opc (bytes32 fw0 ++ bytes32 fw1 ++ d.toList) mk =
      if frameWordsReserved fw0 fw1 then .reject (.reservedOperand opc) else .instr (mk (frameOfWords fw0 fw1 d)) := by
  rw [vector8_toList]
  simp [bytes32, decodeFrameOperand, vector8_eta]

theorem decodeFrameOperand_encode (opc : Byte) (f : RawFrame) (mk : RawFrame → Instr) :
    decodeFrameOperand opc (encodeFrameOperand f) mk = .instr (mk f) := by
  rw [encodeFrameOperand, decodeFrameOperand_words, frameWords_not_reserved, frameOfWords_words]
  rfl

theorem decodeFrameOperand_instr {mk : RawFrame → Instr} (hd : decodeFrameOperand opc ops mk = .instr i) :
    ∃ f, ops = encodeFrameOperand f ∧ i = mk f := by
  unfold decodeFrameOperand at hd
  split at hd
  · next a0 a1 a2 a3 b0 b1 b2 b3 d0 d1 d2 d3 d4 d5 d6 d7 rest =>
    split at hd
    · cases hd
    · next hrest =>
      split at hd
      · cases hd
      · next hres =>
        obtain rfl : rest = [] := not_not.mp hrest
        cases hd
        refine ⟨_, ?_, rfl⟩
        obtain ⟨h0, h1⟩ := frameWords_frameOfWords #v[d0, d1, d2, d3, d4, d5, d6, d7] (Bool.not_eq_true _ ▸ hres)
        rw [encodeFrameOperand, h0, h1, bytes32_le32, bytes32_le32]
        rfl
  · cases hd

theorem decodeEncOperand_encode (m : Byte) (v : Vector Word64 8) (mk : Byte → Vector Word64 8 → Instr) :
    decodeEncOperand (m :: v.toList.flatMap bytes64) mk = .instr (mk m v) := by
  have hwords := takeWords64_bytes64 v.toList []
  rw [Vector.length_toList, List.append_nil] at hwords
  rw [decodeEncOperand, hwords, vector8_toList]
  simp only [vector8_eta]

theorem decodeEncOperand_instr {mk : Byte → Vector Word64 8 → Instr} (hd : decodeEncOperand ops mk = .instr i) :
    ∃ m v, ops = m :: v.toList.flatMap bytes64 ∧ i = mk m v := by
  unfold decodeEncOperand at hd
  split at hd
  · cases hd
  · split at hd
    · next hwords =>
      cases hd
      obtain ⟨-, rfl⟩ := takeWords64_some hwords
      exact ⟨_, _, by rw [List.append_nil]; rfl, rfl⟩
    all_goals cases hd

theorem decodeSendOperand_encode {p : List Byte} (hp : p.length < 65536) (mk : List Byte → Instr) :
    decodeSendOperand (bytes16 (BitVec.ofNat 16 p.length) ++ p) mk = .instr (mk p) := by
  simp [bytes16, decodeSendOperand, Nat.mod_eq_of_lt hp]

theorem decodeSendOperand_instr {mk : List Byte → Instr} (hd : decodeSendOperand ops mk = .instr i) :
    ∃ p, p.length < 65536 ∧ ops = bytes16 (BitVec.ofNat 16 p.length) ++ p ∧ i = mk p := by
  unfold decodeSendOperand at hd
  split at hd
  · next l0 l1 p =>
    split at hd
    · cases hd
    · split at hd
      · cases hd
      · have hlen : p.length = (le16 l0 l1).toNat := by omega
        cases hd
        refine ⟨p, by omega, ?_, rfl⟩
        rw [hlen, BitVec.ofNat_toNat, BitVec.setWidth_eq, bytes16_le16]
        rfl
  · cases hd

theorem decodeVal32Operand_encode (v : Word32) (mk : Word32 → Instr) : decodeVal32Operand (bytes32 v) mk = .instr (mk v) := by
  simp [bytes32, decodeVal32Operand]

theorem decodeVal32Operand_instr {mk : Word32 → Instr} (hd : decodeVal32Operand ops mk = .instr i) : ∃ v, ops = bytes32 v ∧ i = mk v := by
  unfold decodeVal32Operand at hd
  split at hd
  · cases hd
    exact ⟨_, (bytes32_le32 _ _ _ _).symm, rfl⟩
  all_goals cases hd

theorem decodeVal64Operand_encode (v : Word64) (mk : Word64 → Instr) : decodeVal64Operand (bytes64 v) mk = .instr (mk v) := by
  have hword := takeWord64_bytes64 v []
  rw [List.append_nil] at hword
  rw [decodeVal64Operand, hword]

theorem decodeVal64Operand_instr {mk : Word64 → Instr} (hd : decodeVal64Operand ops mk = .instr i) : ∃ v, ops = bytes64 v ∧ i = mk v := by
  unfold decodeVal64Operand at hd
  split at hd
  · next hword =>
    cases hd
    exact ⟨_, by simpa using takeWord64_some hword, rfl⟩
  all_goals cases hd

theorem decodeNoOperand_instr {j : Instr} (hd : decodeNoOperand ops j = .instr i) : ops = [] ∧ i = j := by
  unfold decodeNoOperand at hd
  split at hd
  · cases hd
    exact ⟨rfl, rfl⟩
  · cases hd

/-! ## Whole commands -/

/-- A command whose header passes its row's check decodes as its operand block does. -/
theorem decode_header (hr : opcodeRow opc = some row) (hl : header opc a b &&& row.maskBits = row.matchBits) (ops : List Byte) :
    decode (bytes32 (header opc a b) ++ ops) = decodeOperands opc a b ops := by
  obtain ⟨hrow, rfl⟩ := opcodeRow_some hr
  rw [decode_bytes32, decodeHeader_of_legal hrow hl, headerA_header, headerB_header]

end Sys2Proof
end

section
/-! SUPPORT. Frame kinds (30_encoding.md R95-R100), and steps the header and operand checks turn away (R83, R84). -/

namespace Sys2Proof

/-! ## Frame kinds -/

variable {who : Byte} {d : Vector Byte 8} {i : Instr}

theorem decodeFrame_none_iff (who : Byte) (d : Vector Byte 8) : decodeFrame who d = none ↔ 4 ≤ (pciType d).toNat := by
  unfold decodeFrame
  generalize pciType d = t
  constructor
  · intro h
    split_ifs at h with h0 h1 h2 h3
    bv_omega
  · intro h
    rw [if_neg, if_neg, if_neg, if_neg]
    all_goals rintro rfl; simp at h

/-- The four kinds an accepted frame can spell, by its type nibble (R96-R99). -/
theorem decodeFrame_some_cases (h : decodeFrame who d = some i) :
    (pciType d = 0 ∧ i = .isotpSf who (pciNibble d) (dataFrom2 d)) ∨
    (pciType d = 1 ∧ i = .isotpFf who (ffLength d) (dataFrom3 d)) ∨
    (pciType d = 2 ∧ i = .isotpCf who (pciNibble d) (dataFrom2 d)) ∨
    (pciType d = 3 ∧ i = .isotpFc who (pciNibble d) d[2] d[3] #v[d[4], d[5], d[6], d[7]]) := by
  unfold decodeFrame at h
  split_ifs at h with h0 h1 h2 h3
  · exact .inl ⟨h0, by simpa using h.symm⟩
  · exact .inr (.inl ⟨h1, by simpa using h.symm⟩)
  · exact .inr (.inr (.inl ⟨h2, by simpa using h.symm⟩))
  · exact .inr (.inr (.inr ⟨h3, by simpa using h.symm⟩))

/-- `data[1]` is its type nibble and its type-specific nibble (R95). -/
theorem pciType_append_pciNibble (d : Vector Byte 8) : pciType d ++ pciNibble d = d[1] :=
  (extract_glue d[1] 0 4 4).trans (extract_self d[1])

theorem ffLength_extract_high (d : Vector Byte 8) : (ffLength d).extractLsb' 8 4 = pciNibble d :=
  extract_append_high (pciNibble d) d[2]

theorem ffLength_extract_low (d : Vector Byte 8) : (ffLength d).extractLsb' 0 8 = d[2] :=
  extract_append_low (pciNibble d) d[2]

/-- The kind an accepted frame spells gives the frame's data back. -/
theorem encodeFrame_decodeFrame (h : decodeFrame who d = some i) : encodeFrame d[0] i = some d := by
  have hpci := pciType_append_pciNibble d
  obtain ⟨ht, rfl⟩ | ⟨ht, rfl⟩ | ⟨ht, rfl⟩ | ⟨ht, rfl⟩ := decodeFrame_some_cases h
  all_goals conv_rhs => rw [← vector8_eta d, ← hpci, ht]
  · rfl
  · simp only [encodeFrame, ffLength_extract_high, ffLength_extract_low]
    rfl
  · rfl
  · rfl

/-- The data of a kind start with the recipient and decode to the kind. -/
theorem decodeFrame_encodeFrame {r : Byte} (h : encodeFrame r i = some d) : d[0] = r ∧ ∃ who, decodeFrame who d = some i := by
  have hhigh (t n : Nibble) : (t ++ n).extractLsb' 4 4 = t := extract_append_high t n
  have hlow (t n : Nibble) : (t ++ n).extractLsb' 0 4 = n := extract_append_low t n
  cases i with
  | isotpSf who dl b =>
    cases h
    refine ⟨rfl, who, ?_⟩
    simp [decodeFrame, pciType, pciNibble, dataFrom2, hhigh, hlow, vector6_eta]
  | isotpFf who len b =>
    cases h
    refine ⟨rfl, who, ?_⟩
    have hlen : len.extractLsb' 8 4 ++ len.extractLsb' 0 8 = len := (extract_glue len 0 4 8).trans (extract_self len)
    simp [decodeFrame, pciType, ffLength, pciNibble, dataFrom3, hhigh, hlow, hlen, vector5_eta]
  | isotpCf who sn b =>
    cases h
    refine ⟨rfl, who, ?_⟩
    simp [decodeFrame, pciType, pciNibble, dataFrom2, hhigh, hlow, vector6_eta]
  | isotpFc who fs bs st p =>
    cases h
    refine ⟨rfl, who, ?_⟩
    simp [decodeFrame, pciType, pciNibble, hhigh, hlow, vector4_eta]
  | _ => cases h

/-! ## Commands that carry a frame -/

/-- The commands of the FRAME shape hand their operand block to one decoder (R85). -/
theorem decodeOperands_of_frame {row : OpcodeRow} (hrow : row ∈ opcodeRows.filter (·.shape = .frame)) (a b : Byte) :
    ∃ mk, ∀ ops, decodeOperands row.opc a b ops = decodeFrameOperand row.opc ops mk := by
  have hrows : opcodeRows.filter (·.shape = .frame) = [⟨0x01, 0x00000001, 0xFFFF00FF, .frame⟩, ⟨0x03, 0x00000003, 0xFF0000FF, .frame⟩,
    ⟨0x10, 0x00000010, 0xFFFFFFFF, .frame⟩, ⟨0x12, 0x00000012, 0xFFFFFFFF, .frame⟩] := by decide
  simp only [hrows, List.mem_cons, List.not_mem_nil, or_false] at hrow
  obtain rfl | rfl | rfl | rfl := hrow <;> exact ⟨_, fun ops => rfl⟩

end Sys2Proof

namespace Sys2Proof.Machine

/-! ## Steps that end in ILLEGAL_COMMAND -/

variable {s : State} {bytes : List Byte} {rest : List HostInput} {opc : Byte}

/-- A command the header or operand checks turn away takes its input and reports its opcode, and nothing else changes. -/
theorem step_of_illegal (hin : s.input = .command bytes :: rest)
    (hd : decode bytes = .reject (.unknownOpcode opc) ∨ decode bytes = .reject (.reservedHeader opc) ∨
      decode bytes = .reject (.reservedOperand opc)) :
    step s = .next { s with input := rest, pos := s.pos + 1, outs := s.outs ++ [.status .illegalCommand (.opc opc)] } := by
  obtain hd | hd | hd := hd <;> simp only [step, hin, hd] <;> rfl

end Sys2Proof.Machine
end

section
/-! The obligations on the encoding of commands and frame kinds (30_encoding.md). -/

namespace Sys2Proof

/-- Settles O1: each command's header passes its row's check, and its operand block decodes to its operands. -/
theorem decodeOfEncodedCommand : Obligations.DecodeOfEncodedCommand := by
  unfold Obligations.DecodeOfEncodedCommand
  intro i bs hwf henc
  cases i with
  | codecDecode k f =>
    cases henc
    exact (decode_header rfl (legal_a_iff.mpr ⟨k, rfl⟩) _).trans
      (decodeFrameOperand_encode _ f _)
  | codecEncode k sender m v =>
    cases henc
    exact (decode_header rfl (legal_a_b_iff.mpr ⟨k, sender, rfl⟩) _).trans
      (decodeEncOperand_encode m v _)
  | codecClassify k n f =>
    cases henc
    exact (decode_header rfl (legal_a_b_iff.mpr ⟨k, n, rfl⟩) _).trans
      (decodeFrameOperand_encode _ f _)
  | tpRx f =>
    cases henc
    exact (decode_header rfl (legal_opc_iff.mpr rfl) _).trans
      (decodeFrameOperand_encode _ f _)
  | tpSend r p =>
    cases henc
    rw [List.append_assoc]
    exact (decode_header rfl (legal_a_iff.mpr ⟨r, rfl⟩) _).trans
      (decodeSendOperand_encode (of_decide_eq_true hwf) _)
  | tpClassify f =>
    cases henc
    exact (decode_header rfl (legal_opc_iff.mpr rfl) _).trans
      (decodeFrameOperand_encode _ f _)
  | tpDiscard who all =>
    cases henc
    exact (decode_header rfl (legal_a_flag_iff.mpr ⟨who, all, rfl⟩) []).trans (by cases all <;> rfl)
  | cfgWrite n v =>
    cases henc
    exact (decode_header rfl (legal_a_iff.mpr ⟨n, rfl⟩) _).trans
      (decodeVal32Operand_encode v _)
  | cfgRead n =>
    cases henc
    exact decode_header rfl (legal_a_iff.mpr ⟨n, rfl⟩) []
  | schWrite k w v =>
    cases henc
    exact (decode_header rfl (legal_a_b_iff.mpr ⟨k, w, rfl⟩) _).trans
      (decodeVal64Operand_encode v _)
  | schRead k w =>
    cases henc
    exact decode_header rfl (legal_a_b_iff.mpr ⟨k, w, rfl⟩) []
  | isotpSf => cases henc
  | isotpFf => cases henc
  | isotpCf => cases henc
  | isotpFc => cases henc

/-- Settles O2: bytes that decode have a header that passes its row's check, and an operand block that spells its operands. -/
theorem encodeOfDecodedCommand : Obligations.EncodeOfDecodedCommand := by
  unfold Obligations.EncodeOfDecodedCommand
  intro i bs hd
  obtain ⟨h, ops, rfl, hh⟩ := decode_instr hd
  obtain ⟨row, hrow, hl, ho⟩ := decodeHeader_instr hh
  simp only [opcodeRows, List.mem_cons, List.not_mem_nil, or_false] at hrow
  obtain rfl | rfl | rfl | rfl | rfl | rfl | rfl | rfl | rfl | rfl | rfl := hrow
  · obtain ⟨a, rfl⟩ := legal_a_iff.mp hl
    obtain ⟨f, rfl, rfl⟩ := decodeFrameOperand_instr ho
    rw [headerA_header]
    exact ⟨rfl, rfl⟩
  · obtain ⟨a, b, rfl⟩ := legal_a_b_iff.mp hl
    obtain ⟨m, v, rfl, rfl⟩ := decodeEncOperand_instr ho
    rw [headerA_header, headerB_header]
    exact ⟨rfl, rfl⟩
  · obtain ⟨a, b, rfl⟩ := legal_a_b_iff.mp hl
    obtain ⟨f, rfl, rfl⟩ := decodeFrameOperand_instr ho
    rw [headerA_header, headerB_header]
    exact ⟨rfl, rfl⟩
  · obtain rfl := legal_opc_iff.mp hl
    obtain ⟨f, rfl, rfl⟩ := decodeFrameOperand_instr ho
    exact ⟨rfl, rfl⟩
  · obtain ⟨a, rfl⟩ := legal_a_iff.mp hl
    obtain ⟨p, hp, rfl, rfl⟩ := decodeSendOperand_instr ho
    rw [headerA_header]
    exact ⟨decide_eq_true hp, rfl⟩
  · obtain rfl := legal_opc_iff.mp hl
    obtain ⟨f, rfl, rfl⟩ := decodeFrameOperand_instr ho
    exact ⟨rfl, rfl⟩
  · obtain ⟨a, x, rfl⟩ := legal_a_flag_iff.mp hl
    obtain ⟨rfl, rfl⟩ := decodeNoOperand_instr ho
    rw [headerA_header, headerB_header]
    exact ⟨rfl, by cases x <;> rfl⟩
  · obtain ⟨a, rfl⟩ := legal_a_iff.mp hl
    obtain ⟨v, rfl, rfl⟩ := decodeVal32Operand_instr ho
    rw [headerA_header]
    exact ⟨rfl, rfl⟩
  · obtain ⟨a, rfl⟩ := legal_a_iff.mp hl
    obtain ⟨rfl, rfl⟩ := decodeNoOperand_instr ho
    rw [headerA_header]
    exact ⟨rfl, rfl⟩
  · obtain ⟨a, b, rfl⟩ := legal_a_b_iff.mp hl
    obtain ⟨v, rfl, rfl⟩ := decodeVal64Operand_instr ho
    rw [headerA_header, headerB_header]
    exact ⟨rfl, rfl⟩
  · obtain ⟨a, b, rfl⟩ := legal_a_b_iff.mp hl
    obtain ⟨rfl, rfl⟩ := decodeNoOperand_instr ho
    rw [headerA_header, headerB_header]
    exact ⟨rfl, rfl⟩

end Sys2Proof

namespace Sys2Proof.Machine

/-- Settles O3: a kind keeps the type nibble in its name and every other bit of the data in its fields. -/
theorem frameKindRoundTrip : Obligations.FrameKindRoundTrip := by
  unfold Obligations.FrameKindRoundTrip
  exact ⟨decodeFrame_none_iff, fun _ _ _ h => encodeFrame_decodeFrame h, fun _ _ _ h => decodeFrame_encodeFrame h⟩

/-- Settles O4: the opcodes and the match/mask pairs written out are those of the opcode map. -/
theorem illegalHeaderRefused : Obligations.IllegalHeaderRefused := by
  unfold Obligations.IllegalHeaderRefused
  intro s h ops rest hin hbad
  refine step_of_illegal hin ?_
  rw [decode_bytes32]
  obtain hunknown | ⟨pair, hpair, ho, hreserved⟩ := hbad
  · exact .inl (decodeHeader_of_unknown hunknown)
  · obtain ⟨row, hrow, rfl⟩ : ∃ row ∈ opcodeRows, (row.opc, row.matchBits, row.maskBits) = pair := List.mem_map.mp hpair
    exact .inr (.inl (decodeHeader_of_reserved hrow ho hreserved))

/-- Settles O5: the match/mask pairs written out are those of the commands that carry a frame. -/
theorem reservedOperandRefused : Obligations.ReservedOperandRefused := by
  unfold Obligations.ReservedOperandRefused
  intro s h fw0 fw1 d rest hin hlegal hres
  refine step_of_illegal hin (.inr (.inr ?_))
  obtain ⟨pair, hpair, hl⟩ := hlegal
  obtain ⟨row, hframe, rfl⟩ : ∃ row ∈ opcodeRows.filter (·.shape = .frame), (row.matchBits, row.maskBits) = pair :=
    List.mem_map.mp hpair
  have hrow := List.mem_of_mem_filter hframe
  obtain ⟨mk, hmk⟩ := decodeOperands_of_frame hframe (headerA h) (headerB h)
  rw [List.append_assoc, List.append_assoc, decode_bytes32, decodeHeader_of_legal hrow hl, hmk, ← List.append_assoc,
    decodeFrameOperand_words, if_pos ((frameWordsReserved_iff fw0 fw1).mpr hres), ← headerOpc_of_legal hrow hl]
  rfl

/-- Settles O6: the four headers are legal for every A and B they take, and the operand block has no reserved bit. -/
theorem frameOperandFields : Obligations.FrameOperandFields := by
  unfold Obligations.FrameOperandFields
  intro a b fw0 fw1 d h0 h1 f ops
  have hheader (opc a b : Byte) : [opc, a, b, 0] = bytes32 (header opc a b) := (bytes32_le32 opc a b 0).symm
  have hframe (opc : Byte) (mk : RawFrame → Instr) : decodeFrameOperand opc ops mk = .instr (mk f) := by
    rw [decodeFrameOperand_words]
    exact if_neg (by simp [frameWordsReserved_iff, h0, h1])
  simp only [hheader]
  exact ⟨(decode_header rfl (legal_a_iff.mpr ⟨a, rfl⟩) ops).trans (hframe ..),
    (decode_header rfl (legal_a_b_iff.mpr ⟨a, b, rfl⟩) ops).trans (hframe ..),
    (decode_header rfl (legal_opc_iff.mpr rfl) ops).trans (hframe ..),
    (decode_header rfl (legal_opc_iff.mpr rfl) ops).trans (hframe ..)⟩

/-- Settles O7: each side is written out, so decoding it is a computation. -/
theorem sampleWordsDecode : Obligations.SampleWordsDecode := by
  unfold Obligations.SampleWordsDecode
  decide

end Sys2Proof.Machine
end

section
/-! SUPPORT. The pseudo-commands TP_CONFIG and SCH_LOAD (30_encoding.md R92): the words they write, and what a register or an entry holds
after them. -/

namespace Sys2Proof.Machine

/-! ## TP_CONFIG -/

/-- A byte placed in a word reads back from its place. -/
theorem extract_placed (x : Byte) {k : Nat} (hk : k ≤ 24) : (x.setWidth 32 <<< k).extractLsb' k 8 = x := by
  ext i hi
  have hin : k + i < 32 := by omega
  simp [hin, hi]

/-- A byte placed in a word does not reach below its place. -/
theorem extract_placed_below (x : Byte) {k j : Nat} (h : j + 8 ≤ k) : (x.setWidth 32 <<< k).extractLsb' j 8 = 0 := by
  ext i hi
  have hlow : j + i < k := by omega
  simp [hlow]

/-- A byte placed in a word does not reach above its place. -/
theorem extract_placed_above (x : Byte) {k j : Nat} (h : k + 8 ≤ j) : (x.setWidth 32 <<< k).extractLsb' j 8 = 0 := by
  ext i hi
  have hhigh : x.getLsbD (j + i - k) = false := BitVec.getLsbD_of_ge _ _ (by omega)
  simp [hhigh]

/-- The word TP_CONFIG writes to CFG0. -/
def configWord (addr : Byte) (mode fcpol : Bool) (padByte : Byte) : Word32 :=
  (padByte.setWidth 32 <<< 16) ||| (addr.setWidth 32 <<< 8) ||| (flag32 fcpol <<< 2) ||| (flag32 mode <<< 1) ||| 1

theorem tpConfig_eq (addr : Byte) (mode fcpol : Bool) (padByte : Byte) :
    tpConfig addr mode fcpol padByte = [.cfgWrite 0 (configWord addr mode fcpol padByte)] := rfl

theorem configWord_flags (addr : Byte) (mode fcpol : Bool) (padByte : Byte) :
    (configWord addr mode fcpol padByte &&& cfg0Mask).getLsbD 0 = true ∧
    (configWord addr mode fcpol padByte &&& cfg0Mask).getLsbD 1 = mode ∧
    (configWord addr mode fcpol padByte &&& cfg0Mask).getLsbD 2 = fcpol := by
  cases mode <;> cases fcpol <;> simp [configWord, cfg0Mask, flag32]

theorem configWord_bytes (addr : Byte) (mode fcpol : Bool) (padByte : Byte) :
    (configWord addr mode fcpol padByte &&& cfg0Mask).extractLsb' 8 8 = addr ∧
    (configWord addr mode fcpol padByte &&& cfg0Mask).extractLsb' 16 8 = padByte := by
  have hmask : cfg0Mask.extractLsb' 8 8 = BitVec.allOnes 8 ∧ cfg0Mask.extractLsb' 16 8 = BitVec.allOnes 8 := by decide
  have hflags : ∀ (b : Bool), ∀ j ∈ [8, 16], (flag32 b <<< 2).extractLsb' j 8 = 0 ∧ (flag32 b <<< 1).extractLsb' j 8 = 0 := by decide
  rw [BitVec.extractLsb'_and, BitVec.extractLsb'_and, hmask.1, hmask.2, BitVec.and_allOnes, BitVec.and_allOnes]
  simp [configWord, BitVec.extractLsb'_or, extract_placed, extract_placed_below, extract_placed_above, hflags]

/-! ## Running a list of schema writes -/

/-- SCH_WRITE of a word that exists. -/
theorem exec_schWrite {s : State} {k w : Byte} {e : SchemaEntry} (he : s.sch[k.toNat]? = some e) (hw : w.toNat ≤ 17) (v : Word64) :
    exec (.schWrite k w v) s = done (setSch s (s.sch.set k.toNat (setWord e w.toNat (v &&& schMask w.toNat)))) [] := by
  change execSchWrite k w v s = _
  rw [execSchWrite, he]
  exact if_neg (by omega)

/-- SCH_WRITEs of one entry, each a word number and a value. -/
def schWrites (k : Byte) (ws : List (Byte × Word64)) : List Instr := ws.map (fun p => .schWrite k p.1 p.2)

/-- An entry after words are written to it one after another, each under its mask (43_config.md R244). -/
def writeWords (ws : List (Byte × Word64)) (e : SchemaEntry) : SchemaEntry :=
  ws.foldl (fun e p => setWord e p.1.toNat (p.2 &&& schMask p.1.toNat)) e

/-- SCH_WRITEs of words that exist leave the entry with those words written, and one OK each. -/
theorem runAll_schWrites {k : Byte} {ws : List (Byte × Word64)} (hws : ∀ p ∈ ws, p.1.toNat ≤ 17) {s : State} {e : SchemaEntry}
    (he : s.sch[k.toNat]? = some e) :
    runAll (schWrites k ws) s = some { s with
      sch := s.sch.set k.toNat (writeWords ws e), outs := s.outs ++ List.replicate ws.length (.status .ok .empty) } := by
  induction ws generalizing s e with
  | nil =>
    obtain ⟨hk, rfl⟩ := List.getElem?_eq_some_iff.mp he
    simp [schWrites, writeWords]
  | cons p ws ih =>
    obtain ⟨hk, -⟩ := List.getElem?_eq_some_iff.mp he
    rw [List.forall_mem_cons] at hws
    rw [schWrites, List.map_cons, runAll_cons (exec_schWrite he hws.1 p.2)]
    exact (ih hws.2 (List.getElem?_set_self hk)).trans (by simp [writeWords, setSch, emits, List.replicate_succ])

/-! ## The words of an entry after writes -/

/-- A word that is not among those written reads as before. -/
theorem wordAt_writeWords_of_ne {ws : List (Byte × Word64)} {j : Nat} (hws : ∀ p ∈ ws, p.1.toNat ≠ j) (e : SchemaEntry) :
    wordAt (writeWords ws e) j = wordAt e j := by
  induction ws generalizing e with
  | nil => rfl
  | cons p ws ih =>
    rw [List.forall_mem_cons] at hws
    exact (ih hws.2 _).trans ((wordAt_setWord ..).trans (if_neg fun h => hws.1 h.1.symm))

/-- A word reads as the last write to it left it. -/
theorem wordAt_writeWords {us vs : List (Byte × Word64)} {w : Byte} (hw : w.toNat ≤ 17) (hvs : ∀ p ∈ vs, p.1.toNat ≠ w.toNat)
    (v : Word64) (e : SchemaEntry) : wordAt (writeWords (us ++ (w, v) :: vs) e) w.toNat = v &&& schMask w.toNat := by
  rw [writeWords, List.foldl_append]
  exact (wordAt_writeWords_of_ne hvs _).trans ((wordAt_setWord ..).trans (if_pos ⟨rfl, Nat.lt_succ_of_le hw⟩))

/-! ## The words an SCH_LOAD writes -/

/-- The descriptor and value words of the fields from index `i` on. -/
def fieldWords (i : Nat) (fields : List FieldSpec) : List (Byte × Word64) :=
  match fields with
  | [] => []
  | f :: fs => (BitVec.ofNat 8 (2 + i), fieldSpecDesc f) :: (BitVec.ofNat 8 (10 + i), f.value) :: fieldWords (i + 1) fs

theorem schLoadFields_eq (k : Byte) (i : Nat) (fields : List FieldSpec) :
    schLoadFields k i fields = schWrites k (fieldWords i fields) := by
  induction fields generalizing i with
  | nil => rfl
  | cons f fs ih => rw [schLoadFields, ih]; rfl

/-- The words an SCH_LOAD writes between its two writes of the header word: the identifier and the fields. -/
def bodyWords (id : CanId) (fields : List FieldSpec) : List (Byte × Word64) := (1, id.setWidth 64) :: fieldWords 0 fields

/-- The words an SCH_LOAD writes: the header word 0 first, the header word with VALID last. -/
def loadWords (ext addressed : Bool) (id : CanId) (fields : List FieldSpec) : List (Byte × Word64) :=
  (0, 0) :: bodyWords id fields ++ [(0, schLoadHeader ext addressed fields.length)]

theorem schLoad_eq (k : Byte) (ext addressed : Bool) (id : CanId) (fields : List FieldSpec) :
    schLoad k ext addressed id fields = schWrites k (loadWords ext addressed id fields) := by
  simp [schLoad, schLoadFields_eq, schWrites, loadWords, bodyWords]

/-- Field words go to the descriptors and the values of the fields' own indices. -/
theorem fieldWords_index {i : Nat} {fields : List FieldSpec} (hlen : i + fields.length ≤ 8) :
    ∀ p ∈ fieldWords i fields, ∃ j, i ≤ j ∧ j < 8 ∧ (p.1.toNat = 2 + j ∨ p.1.toNat = 10 + j) := by
  induction fields generalizing i with
  | nil => simp [fieldWords]
  | cons f fs ih =>
    rw [List.length_cons] at hlen
    simp only [fieldWords, List.forall_mem_cons, BitVec.toNat_ofNat]
    refine ⟨⟨i, by omega⟩, ⟨i, by omega⟩, fun p hp => ?_⟩
    obtain ⟨j, hj⟩ := ih (by omega) p hp
    exact ⟨j, by omega⟩

theorem schMask_desc {i : Nat} (hi : i < 8) : schMask (2 + i) = 0x7F := by
  rw [schMask, if_neg (by omega), if_neg (by omega), if_pos (by omega)]

theorem schMask_value (i : Nat) : schMask (10 + i) = BitVec.allOnes 64 := by
  rw [schMask, if_neg (by omega), if_neg (by omega), if_neg (by omega)]

/-- The two words of a field, after all fields are written. -/
theorem wordAt_fieldWords {i j : Nat} {fields : List FieldSpec} {f : FieldSpec} (hlen : i + fields.length ≤ 8)
    (hf : fields[j]? = some f) (e : SchemaEntry) :
    wordAt (writeWords (fieldWords i fields) e) (2 + (i + j)) = fieldSpecDesc f &&& 0x7F ∧
    wordAt (writeWords (fieldWords i fields) e) (10 + (i + j)) = f.value := by
  induction fields generalizing i j e with
  | nil => simp at hf
  | cons g gs ih =>
    rw [List.length_cons] at hlen
    cases j with
    | succ j =>
      rw [Nat.add_comm j 1, ← Nat.add_assoc i 1 j]
      exact ih (by omega) (by simpa using hf) _
    | zero =>
      obtain rfl : g = f := by simpa using hf
      have hdesc : (BitVec.ofNat 8 (2 + i)).toNat = 2 + i := Nat.mod_eq_of_lt (by omega)
      have hvalue : (BitVec.ofNat 8 (10 + i)).toNat = 10 + i := Nat.mod_eq_of_lt (by omega)
      have hrest : ∀ p ∈ fieldWords (i + 1) gs, p.1.toNat ≠ 2 + i ∧ p.1.toNat ≠ 10 + i := by
        intro p hp
        obtain ⟨j, hj⟩ := fieldWords_index (by omega) p hp
        omega
      constructor
      · have h := wordAt_writeWords (us := []) (w := BitVec.ofNat 8 (2 + i))
          (vs := (BitVec.ofNat 8 (10 + i), g.value) :: fieldWords (i + 1) gs) (by omega)
          (by rw [List.forall_mem_cons, hdesc, hvalue]; exact ⟨by omega, fun p hp => (hrest p hp).1⟩) (fieldSpecDesc g) e
        rwa [hdesc, schMask_desc (by omega)] at h
      · have h := wordAt_writeWords (us := [(BitVec.ofNat 8 (2 + i), fieldSpecDesc g)]) (w := BitVec.ofNat 8 (10 + i))
          (vs := fieldWords (i + 1) gs) (by omega) (by rw [hvalue]; exact fun p hp => (hrest p hp).2) g.value e
        rwa [hvalue, schMask_value, BitVec.and_allOnes] at h

/-! ## The fields of the words -/

theorem schLoadHeader_fields (ext addressed : Bool) {n : Nat} (hn : n ≤ 8) :
    (schLoadHeader ext addressed n &&& schMask 0).getLsbD 0 = true ∧ (schLoadHeader ext addressed n &&& schMask 0).getLsbD 1 = ext ∧
    (schLoadHeader ext addressed n &&& schMask 0).getLsbD 2 = addressed ∧
    ((schLoadHeader ext addressed n &&& schMask 0).extractLsb' 3 4).toNat = n := by
  interval_cases n <;> revert ext addressed <;> decide

theorem fieldSpecDesc_fields (f : FieldSpec) :
    ((fieldSpecDesc f &&& 0x7F).extractLsb' 0 4).toNat = f.width.toNat ∧ (fieldSpecDesc f &&& 0x7F).getLsbD 4 = f.little ∧
    (fieldSpecDesc f &&& 0x7F).getLsbD 5 = f.signed ∧ (fieldSpecDesc f &&& 0x7F).getLsbD 6 = f.const := by
  obtain ⟨width, little, signed, const, value⟩ := f
  simp only [fieldSpecDesc]
  revert width little signed const
  decide

theorem extract_id (id : CanId) : (id.setWidth 64 &&& schMask 1).extractLsb' 0 29 = id := by
  have hmask : (schMask 1).extractLsb' 0 29 = BitVec.allOnes 29 := by decide
  rw [BitVec.extractLsb'_and, hmask, BitVec.and_allOnes]
  ext i hi
  simp [hi]
  omega

/-! ## The entry an SCH_LOAD leaves, and the entries on the way to it -/

variable {fields : List FieldSpec}

/-- The body writes words that exist, and never the header word. -/
theorem bodyWords_index (hlen : fields.length ≤ 8) (id : CanId) : ∀ p ∈ bodyWords id fields, p.1.toNat ≠ 0 ∧ p.1.toNat ≤ 17 := by
  rw [bodyWords, List.forall_mem_cons]
  refine ⟨⟨show (1 : Byte).toNat ≠ 0 by decide, show (1 : Byte).toNat ≤ 17 by decide⟩, fun p hp => ?_⟩
  obtain ⟨j, hj⟩ := fieldWords_index (i := 0) (by omega) p hp
  omega

theorem loadWords_index (hlen : fields.length ≤ 8) (ext addressed : Bool) (id : CanId) :
    ∀ p ∈ loadWords ext addressed id fields, p.1.toNat ≤ 17 := by
  simp only [loadWords, List.cons_append, List.forall_mem_cons, List.forall_mem_append]
  exact ⟨by decide, fun p hp => (bodyWords_index hlen id p hp).2, by decide, by simp⟩

theorem header_after_load (ext addressed : Bool) (id : CanId) (e : SchemaEntry) :
    wordAt (writeWords (loadWords ext addressed id fields) e) 0 = schLoadHeader ext addressed fields.length &&& schMask 0 :=
  wordAt_writeWords (us := (0, 0) :: bodyWords id fields) (vs := []) (w := 0) (by decide) (by simp) _ e

theorem id_after_load (hlen : fields.length ≤ 8) (ext addressed : Bool) (id : CanId) (e : SchemaEntry) :
    wordAt (writeWords (loadWords ext addressed id fields) e) 1 = id.setWidth 64 &&& schMask 1 := by
  refine wordAt_writeWords (us := [(0, 0)]) (w := 1) (vs := fieldWords 0 fields ++ [(0, schLoadHeader ext addressed fields.length)])
    (by decide) ?_ _ e
  rw [List.forall_mem_append]
  refine ⟨fun p hp => ?_, by simp⟩
  obtain ⟨j, hj⟩ := fieldWords_index (i := 0) (by omega) p hp
  change _ ≠ 1
  omega

theorem fields_after_load (hlen : fields.length ≤ 8) (ext addressed : Bool) (id : CanId) (e : SchemaEntry) {j : Nat} {f : FieldSpec}
    (hf : fields[j]? = some f) :
    fieldDesc (writeWords (loadWords ext addressed id fields) e) j = fieldSpecDesc f &&& 0x7F ∧
    fieldDefault (writeWords (loadWords ext addressed id fields) e) j = f.value := by
  have hlast (e : SchemaEntry) {w : Nat} (hw : w ≠ 0) :
      wordAt (writeWords [(0, schLoadHeader ext addressed fields.length)] e) w = wordAt e w :=
    wordAt_writeWords_of_ne (by simpa using hw.symm) e
  have hfields := wordAt_fieldWords (i := 0) (by omega) hf (writeWords [(0, 0), (1, id.setWidth 64)] e)
  rw [Nat.zero_add] at hfields
  have hsplit : writeWords (loadWords ext addressed id fields) e = writeWords [(0, schLoadHeader ext addressed fields.length)]
      (writeWords (fieldWords 0 fields) (writeWords [(0, 0), (1, id.setWidth 64)] e)) := List.foldl_append
  rw [fieldDesc, fieldDefault, hsplit, hlast _ (by omega), hlast _ (by omega)]
  exact hfields

/-- Between the first and the last word of an SCH_LOAD the header word is 0. -/
theorem header_during_load (hlen : fields.length ≤ 8) (ext addressed : Bool) (id : CanId) (e : SchemaEntry) {n : Nat} (hn : 1 ≤ n)
    (hlt : n < (loadWords ext addressed id fields).length) :
    wordAt (writeWords ((loadWords ext addressed id fields).take n) e) 0 = 0 := by
  obtain ⟨m, rfl⟩ : ∃ m, n = m + 1 := ⟨n - 1, by omega⟩
  have hm : m ≤ (bodyWords id fields).length := by simpa [loadWords] using hlt
  rw [loadWords, List.cons_append, List.take_succ_cons, List.take_append_of_le_length hm]
  refine (wordAt_writeWords (us := []) (w := 0) (by decide) (fun p hp => ?_) 0 e).trans BitVec.zero_and
  exact (bodyWords_index hlen id p (List.mem_of_mem_take hp)).1

end Sys2Proof.Machine
end

section
/-! The obligations on the pseudo-commands (30_encoding.md R92). -/

namespace Sys2Proof.Machine

/-- Settles O36: TP_CONFIG is one write of CFG0, whose word holds EN and the four fields in their places. -/
theorem configPseudoSetsFields : Obligations.ConfigPseudoSetsFields := by
  unfold Obligations.ConfigPseudoSetsFields
  intro s addr padByte mode fcpol
  obtain ⟨hen, hmode, hpol⟩ := configWord_flags addr mode fcpol padByte
  obtain ⟨haddr, hpad⟩ := configWord_bytes addr mode fcpol padByte
  rw [tpConfig_eq]
  exact ⟨_, runAll_cons (exec_cfgWrite_cfg0 s _), hen, hmode, hpol, haddr, hpad, List.map_const', rfl, rfl, rfl, rfl⟩

/-- Settles O35: an SCH_LOAD is a list of writes to one entry, of which the header word's first clears VALID and its last sets it. -/
theorem schemaLoadWritesEntry : Obligations.SchemaLoadWritesEntry := by
  unfold Obligations.SchemaLoadWritesEntry
  intro s k ext addressed id fields hk hlen
  have he := List.getElem?_eq_getElem hk
  have hindex := loadWords_index hlen ext addressed id
  rw [schLoad_eq]
  constructor
  · have hheader := header_after_load (fields := fields) ext addressed id s.sch[k.toNat]
    have hid := id_after_load hlen ext addressed id s.sch[k.toNat]
    obtain ⟨hvalid, hext, haddressed, hcount⟩ := schLoadHeader_fields ext addressed hlen
    refine ⟨_, _, runAll_schWrites hindex he, ?_, ?_, ?_, ?_, ?_, fun j f hf => ?_⟩
    · rwa [entryIsValid, hheader]
    · rwa [entryExt, hheader]
    · rwa [entryAddressed, hheader]
    · rwa [entryFields, hheader]
    · rw [entryId, hid, extract_id]
    · obtain ⟨hdesc, hdefault⟩ := fields_after_load hlen ext addressed id s.sch[k.toNat] hf
      rw [fieldWidth, fieldLittle, fieldSigned, fieldConst, hdesc]
      obtain ⟨hwidth, hlittle, hsigned, hconst⟩ := fieldSpecDesc_fields f
      exact ⟨hwidth, hlittle, hsigned, hconst, hdefault⟩
  · intro n hn hlt
    have hlt : n < (loadWords ext addressed id fields).length := by simpa [schWrites] using hlt
    rw [schWrites, ← List.map_take]
    refine ⟨_, _, runAll_schWrites (fun p hp => hindex p (List.mem_of_mem_take hp)) he, List.getElem?_set_self hk, ?_⟩
    rw [entryIsValid, header_during_load hlen ext addressed id _ hn hlt]
    rfl

end Sys2Proof.Machine
end

section
/-! SUPPORT. Sending a payload that needs an FF: the frames that leave, and how many (42_framer_tx.md R215, R222, R227). -/

namespace Sys2Proof.Machine

/-- A drain sends a frame for every six bytes begun (R222, R227). -/
theorem drainFrames_length (s : State) (r : Byte) {fuel : Nat} {rem : List Byte} (h : rem.length ≤ fuel) (sn : Nibble) :
    (drainFrames s r fuel rem sn).length = cfFramesFor rem.length := by
  induction fuel generalizing rem sn with
  | zero =>
    obtain rfl : rem = [] := List.length_eq_zero_iff.mp (by omega)
    rfl
  | succ fuel ih =>
    by_cases hr : rem = []
    · subst hr
      rfl
    · have hpos : 0 < rem.length := List.length_pos_iff.mpr hr
      have hdrop : (rem.drop 6).length = rem.length - 6 := List.length_drop
      rw [drainFrames_cons _ _ _ _ _ hr, List.length_cons, ih (by omega), hdrop, cfFramesFor, cfFramesFor]
      omega

@[simp] theorem txFramesOf_nil : txFramesOf [] = [] := rfl

@[simp] theorem txFramesOf_cons_txFrame (f : RawFrame) (es : List Event) : txFramesOf (.txFrame f :: es) = f :: txFramesOf es := rfl

@[simp] theorem txFramesOf_cons_status (c : Code) (info : Info) (es : List Event) :
    txFramesOf (.status c info :: es) = txFramesOf es := rfl

@[simp] theorem txFramesOf_append (es ds : List Event) : txFramesOf (es ++ ds) = txFramesOf es ++ txFramesOf ds :=
  List.filterMap_append

@[simp] theorem txFramesOf_map_txFrame (fs : List RawFrame) : txFramesOf (fs.map .txFrame) = fs := by
  induction fs with
  | nil => rfl
  | cons f fs ih => exact congrArg (f :: ·) ih

/-- TP_SEND of 7..4095 bytes sends a first frame and keeps the rest (R215, R216). -/
theorem exec_tpSend_long {s : State} {p : List Byte} (hen : enabled s = true) (h1 : 7 ≤ p.length) (h2 : p.length ≤ 4095) (r : Byte) :
    exec (.tpSend r p) s =
      finish (setTx s (.pending r (p.drop 5) 1)) [.txFrame (ffFrame s r p)] (sendStatus s).1 (sendStatus s).2 := by
  change execTpSend r p s = _
  rw [execTpSend, hen, if_neg (by decide), if_neg (by rw [Config.maxPayload]; omega), if_neg (by omega)]

/-- A flow-control continue from the recipient of the pending segment drains it, under either policy (R222, R230). -/
theorem exec_isotpFc_continue {s : State} {r : Byte} {rem : List Byte} {sn : Nibble} (ht : s.tx = .pending r rem sn) (bs st : Byte)
    (pd : Vector Byte 4) : exec (.isotpFc r 0 bs st pd) s = drain s r rem sn := by
  change rxFc r 0 s = _
  simp [rxFc, ht]

end Sys2Proof.Machine
end

section
/-! The obligation on the number of frames of a payload (30_encoding.md R104). -/

namespace Sys2Proof.Machine

/-- Settles O58: the first frame takes 5 bytes, and the drain sends the rest six at a time. -/
theorem payloadFrameCount : Obligations.PayloadFrameCount := by
  unfold Obligations.PayloadFrameCount
  intro s r p bs st pd hen h1 h2
  refine ⟨_, (runAll_cons (exec_tpSend_long hen h1 h2 r)).trans (runAll_cons (exec_isotpFc_continue rfl bs st pd)), rfl, ?_⟩
  rw [newEvents_append s _ _ (List.append_assoc ..)]
  simp only [List.cons_append, List.nil_append, txFramesOf_cons_txFrame, txFramesOf_cons_status, txFramesOf_append,
    txFramesOf_map_txFrame, txFramesOf_nil, List.append_nil, List.length_cons]
  rw [drainFrames_length _ _ le_rfl, List.length_drop]
  exact Nat.add_comm ..

end Sys2Proof.Machine
end

section
/-! SUPPORT. Schema fields as bytes and as numbers: where a field lies in a frame, what its bytes are worth, and what the bytes CODEC_ENCODE
writes read back as (20_memory.md R62; 40_codec.md R123, R124, R132). -/

namespace Sys2Proof.Machine

/-! ## Base-256 numbers -/

/-- A number from its base-256 digits, as the sum of their places. -/
theorem ofDigits_eq_sum_range (l : List ℕ) :
    Nat.ofDigits 256 l = ((List.range l.length).map (fun j => l.getD j 0 * 256 ^ j)).sum := by
  rw [Nat.ofDigits_eq_sum_mapIdx]
  congr 1
  exact List.ext_getElem (by simp) fun i h _ => by
    have hi : i < l.length := by simpa using h
    simp [hi]

/-- The same for digits listed most significant first. -/
theorem ofDigits_reverse_eq_sum_range (l : List ℕ) :
    Nat.ofDigits 256 l.reverse = ((List.range l.length).map (fun j => l.getD j 0 * 256 ^ (l.length - 1 - j))).sum := by
  rw [ofDigits_eq_sum_range, List.length_reverse, ← List.sum_reverse]
  congr 1
  refine List.ext_getElem (by simp) fun i h _ => ?_
  have hi : i < l.length := by simpa using h
  have hlow : l.length - 1 - i < l.length := by omega
  have hback : l.length - 1 - (l.length - 1 - i) = i := by omega
  simp [hi, hlow, hback]

/-- The low `w` digits of a number are worth its remainder. -/
theorem ofDigits_digits (w x : ℕ) : Nat.ofDigits 256 ((List.range w).map (fun j => x / 256 ^ j % 256)) = x % 256 ^ w := by
  induction w with
  | zero => simp [Nat.mod_one]
  | succ w ih =>
    rw [List.range_succ, List.map_append, Nat.ofDigits_append, ih, Nat.mod_pow_succ]
    simp

/-- At most eight bytes are worth, as a 64-bit word, the number they spell (20_memory.md R62). -/
theorem beValue_reverse_toNat {l : List Byte} (h : l.length ≤ 8) :
    (beValue l.reverse).toNat = Nat.ofDigits 256 (l.map BitVec.toNat) := by
  induction l with
  | nil => rfl
  | cons b l ih =>
    rw [List.length_cons] at h
    have hcons : beValue (b :: l).reverse = beValue l.reverse <<< 8 ||| b.setWidth 64 := by
      rw [List.reverse_cons]
      exact List.foldl_concat ..
    have hrest : (beValue l.reverse).toNat < 2 ^ 56 := by
      rw [ih (by omega)]
      calc Nat.ofDigits 256 (l.map BitVec.toNat)
          < 256 ^ (l.map BitVec.toNat).length :=
            Nat.ofDigits_lt_base_pow_length (by decide) (by simpa using fun a _ => a.isLt)
        _ ≤ 256 ^ 7 := Nat.pow_le_pow_right (by decide) (by rw [List.length_map]; omega)
    rw [hcons, BitVec.toNat_or, BitVec.toNat_shiftLeft, BitVec.toNat_setWidth, Nat.shiftLeft_eq, Nat.mod_eq_of_lt (by omega),
      Nat.mod_eq_of_lt (by omega), ← Nat.shiftLeft_eq, ← Nat.shiftLeft_add_eq_or_of_lt b.isLt, Nat.shiftLeft_eq, List.map_cons,
      Nat.ofDigits_cons, ← ih (by omega)]
    omega

/-! ## A field's bytes, least significant first -/

/-- The bytes of field `i` turned between their order in the frame and least significant first (40_codec.md R123). -/
def lsbFirst (e : SchemaEntry) (i : Nat) (l : List Byte) : List Byte := if fieldLittle e i then l else l.reverse

@[simp] theorem lsbFirst_lsbFirst (e : SchemaEntry) (i : Nat) (l : List Byte) : lsbFirst e i (lsbFirst e i l) = l := by
  cases h : fieldLittle e i <;> simp [lsbFirst, h]

@[simp] theorem length_lsbFirst (e : SchemaEntry) (i : Nat) (l : List Byte) : (lsbFirst e i l).length = l.length := by
  cases h : fieldLittle e i <;> simp [lsbFirst, h]

theorem fieldRaw_eq (e : SchemaEntry) (i : Nat) (data : Vector Byte 8) :
    fieldRaw e i data = beValue (lsbFirst e i (fieldBytes e i data)).reverse := by
  cases h : fieldLittle e i <;> simp [fieldRaw, lsbFirst, h]

/-- The low `w` bytes of a word, least significant first. -/
def lowByteList (w : Nat) (x : Word64) : List Byte := (List.range w).map (fun j => x.extractLsb' (8 * j) 8)

@[simp] theorem length_lowByteList (w : Nat) (x : Word64) : (lowByteList w x).length = w := by simp [lowByteList]

theorem encodeFieldBytes_eq (e : SchemaEntry) (m : Byte) (v : Vector Word64 8) (i : Nat) :
    encodeFieldBytes e m v i = lsbFirst e i (lowByteList (fieldWidth e i) (encodeSource e m v i)) := by
  cases h : fieldLittle e i with
  | true => simp [encodeFieldBytes, lsbFirst, lowByteList, h]
  | false =>
    simp only [encodeFieldBytes, lsbFirst, h, Bool.false_eq_true, if_false]
    exact List.ext_getElem (by simp) fun j h1 h2 => by simp [lowByteList]

@[simp] theorem length_encodeFieldBytes (e : SchemaEntry) (m : Byte) (v : Vector Word64 8) (i : Nat) :
    (encodeFieldBytes e m v i).length = fieldWidth e i := by simp [encodeFieldBytes]

/-! ## Raw values and field values -/

theorem two_pow_eight_mul (w : Nat) : 2 ^ (8 * w) = 256 ^ w := by rw [pow_mul]; rfl

theorem lowBytes_toNat (w : Nat) (x : Word64) : (lowBytes w x).toNat = x.toNat % 256 ^ w := by
  have hle : x.toNat % 2 ^ (8 * w) < 2 ^ 64 := lt_of_le_of_lt (Nat.mod_le ..) x.isLt
  rw [lowBytes, BitVec.toNat_setWidth, BitVec.toNat_setWidth, Nat.mod_eq_of_lt hle, two_pow_eight_mul]

/-- The low bytes of a word read back as its low bits (40_codec.md R132). -/
theorem beValue_lowByteList {w : Nat} (hw : w ≤ 8) (x : Word64) : beValue (lowByteList w x).reverse = lowBytes w x := by
  have hdigits : (lowByteList w x).map BitVec.toNat = (List.range w).map (fun j => x.toNat / 256 ^ j % 256) := by
    rw [lowByteList, List.map_map]
    exact List.map_congr_left fun j _ => by rw [Function.comp_apply, extract_toNat, two_pow_eight_mul]; rfl
  rw [← BitVec.toNat_inj, beValue_reverse_toNat (by simpa using hw), hdigits, ofDigits_digits, lowBytes_toNat]

/-- A value that fits its field comes back from its low bytes (R136). -/
theorem fieldValue_lowBytes {e : SchemaEntry} {i : Nat} {x : Word64} (hw : fieldWidth e i ≤ 8)
    (hunsigned : fieldSigned e i = false → x.toNat < 2 ^ (8 * fieldWidth e i))
    (hsigned : fieldSigned e i = true → x = (x.setWidth (8 * fieldWidth e i)).signExtend 64) :
    fieldValue e i (lowBytes (fieldWidth e i) x) = x := by
  cases h : fieldSigned e i with
  | false =>
    rw [fieldValue, h, if_neg Bool.false_ne_true, ← BitVec.toNat_inj, lowBytes_toNat]
    exact Nat.mod_eq_of_lt (two_pow_eight_mul _ ▸ hunsigned h)
  | true =>
    rw [fieldValue, h, if_pos rfl, lowBytes, BitVec.setWidth_setWidth_of_le _ (by omega), BitVec.setWidth_eq]
    exact (hsigned h).symm

/-- The sign extension of a raw value that fits `n` bits, as an integer (R124). -/
theorem toInt_signExtend_setWidth {n : Nat} {raw : Word64} (h1 : 1 ≤ n) (h2 : n ≤ 64) (hraw : raw.toNat < 2 ^ n) :
    ((raw.setWidth n).signExtend 64).toInt =
      if raw.toNat < 2 ^ (n - 1) then (raw.toNat : Int) else (raw.toNat : Int) - 2 ^ n := by
  have hhalf : 2 * raw.toNat < 2 ^ n ↔ raw.toNat < 2 ^ (n - 1) := by
    rw [← Nat.sub_add_cancel h1, pow_succ', Nat.add_sub_cancel]
    exact Nat.mul_lt_mul_left (Nat.succ_pos 1)
  rw [BitVec.toInt_signExtend_of_le h2, BitVec.toInt_eq_toNat_cond, BitVec.toNat_setWidth, Nat.mod_eq_of_lt hraw]
  simp only [hhalf, Nat.cast_pow, Nat.cast_ofNat]

/-! ## Where a field lies -/

@[simp] theorem fieldOffset_zero (e : SchemaEntry) : fieldOffset e 0 = 0 := rfl

theorem fieldOffset_succ (e : SchemaEntry) (i : Nat) : fieldOffset e (i + 1) = fieldOffset e i + fieldWidth e i := by
  simp [fieldOffset, List.range_succ]

theorem fieldOffset_mono (e : SchemaEntry) : Monotone (fieldOffset e) :=
  monotone_nat_of_le_succ fun i => by rw [fieldOffset_succ]; omega

/-- A field of an entry ends within the entry's data length. -/
theorem fieldOffset_add_width_le {e : SchemaEntry} {i : Nat} (hi : i < entryFields e) :
    fieldOffset e i + fieldWidth e i ≤ entryLen e := by
  rw [← fieldOffset_succ]
  exact fieldOffset_mono e hi

theorem length_fieldBytes {e : SchemaEntry} {i : Nat} (h : fieldOffset e i + fieldWidth e i ≤ 8) (data : Vector Byte 8) :
    (fieldBytes e i data).length = fieldWidth e i := by
  rw [fieldBytes, List.length_take, List.length_drop, Vector.length_toList]
  omega

theorem fieldBytes_getD {e : SchemaEntry} {i j : Nat} (hj : j < fieldWidth e i) (data : Vector Byte 8) :
    (fieldBytes e i data).getD j 0 = data.toList.getD (fieldOffset e i + j) 0 := by
  rw [List.getD_eq_getElem?_getD, List.getD_eq_getElem?_getD, fieldBytes, List.getElem?_take_of_lt hj, List.getElem?_drop]

theorem fieldBytes_digit {e : SchemaEntry} {i j : Nat} (hj : j < fieldWidth e i) (data : Vector Byte 8) :
    ((fieldBytes e i data).map BitVec.toNat).getD j 0 = (data.toList.getD (fieldOffset e i + j) 0).toNat := by
  rw [← fieldBytes_getD hj]
  exact List.getD_map _ 0 BitVec.toNat

/-- A little-endian field as a number (R123). -/
theorem fieldRaw_little_toNat {e : SchemaEntry} {i : Nat} (hlittle : fieldLittle e i = true)
    (hw : fieldOffset e i + fieldWidth e i ≤ 8) (data : Vector Byte 8) :
    (fieldRaw e i data).toNat =
      ((List.range (fieldWidth e i)).map (fun j => (data.toList.getD (fieldOffset e i + j) 0).toNat * 256 ^ j)).sum := by
  have hlen := length_fieldBytes hw data
  rw [fieldRaw_eq, lsbFirst, if_pos hlittle, beValue_reverse_toNat (by omega), ofDigits_eq_sum_range, List.length_map, hlen]
  exact congrArg List.sum (List.map_congr_left fun j hj => by rw [fieldBytes_digit (List.mem_range.mp hj)])

/-- A big-endian field as a number (R123). -/
theorem fieldRaw_big_toNat {e : SchemaEntry} {i : Nat} (hbig : fieldLittle e i = false)
    (hw : fieldOffset e i + fieldWidth e i ≤ 8) (data : Vector Byte 8) :
    (fieldRaw e i data).toNat =
      ((List.range (fieldWidth e i)).map
        (fun j => (data.toList.getD (fieldOffset e i + j) 0).toNat * 256 ^ (fieldWidth e i - 1 - j))).sum := by
  have hlen := length_fieldBytes hw data
  rw [fieldRaw_eq, lsbFirst, hbig, if_neg Bool.false_ne_true, beValue_reverse_toNat (by rw [List.length_reverse]; omega),
    List.map_reverse, ofDigits_reverse_eq_sum_range, List.length_map, hlen]
  exact congrArg List.sum (List.map_congr_left fun j hj => by rw [fieldBytes_digit (List.mem_range.mp hj)])

end Sys2Proof.Machine
end

section
/-! SUPPORT. The frame CODEC_ENCODE builds, and everything `Match` and the three codec commands answer (40_codec.md R121, R126, R130, R135). -/

namespace Sys2Proof.Machine

/-! ## The encoded frame (R130) -/

section Encoded
variable {s : State} {k : Nat} {e : SchemaEntry}

/-- The fields of an encoded frame up to field `i` fill the bytes up to that field's offset. -/
theorem length_flatMap_encodeFieldBytes (e : SchemaEntry) (m : Byte) (v : Vector Word64 8) (i : Nat) :
    ((List.range i).flatMap (encodeFieldBytes e m v)).length = fieldOffset e i := by
  simp [List.length_flatMap, fieldOffset]

theorem encodedData_toList (hlen : entryLen e ≤ 8) (m : Byte) (v : Vector Word64 8) :
    (encodedData e m v).toList =
      (List.range (entryFields e)).flatMap (encodeFieldBytes e m v) ++ List.replicate (8 - entryLen e) 0 := by
  have hfields := length_flatMap_encodeFieldBytes e m v (entryFields e)
  rw [encodedData, padTo8_toList _ _ (hfields.trans_le hlen), hfields, entryLen]

/-- The bytes of a field in the encoded frame are the ones encoded for it. -/
theorem fieldBytes_encodedData (hlen : entryLen e ≤ 8) (m : Byte) (v : Vector Word64 8) {i : Nat} (hi : i < entryFields e) :
    fieldBytes e i (encodedData e m v) = encodeFieldBytes e m v i := by
  obtain ⟨n, hn⟩ : ∃ n, entryFields e = i + (n + 1) := ⟨entryFields e - i - 1, by omega⟩
  rw [fieldBytes, encodedData_toList hlen, hn, List.range_add, List.flatMap_append, List.append_assoc,
    List.drop_left' (length_flatMap_encodeFieldBytes e m v i), List.range_succ_eq_map, List.map_cons, List.flatMap_cons,
    List.append_assoc]
  exact List.take_left' (length_encodeFieldBytes e m v i)

/-- Past its data length an encoded frame holds zeros. -/
theorem encodedData_getD_of_ge (hlen : entryLen e ≤ 8) (m : Byte) (v : Vector Word64 8) {p : Nat} (hp : entryLen e ≤ p) :
    (encodedData e m v).toList.getD p 0 = 0 := by
  have hfields := length_flatMap_encodeFieldBytes e m v (entryFields e)
  rw [encodedData_toList hlen, List.getD_append_right _ _ _ _ (hfields.trans_le hp)]
  exact List.getElem?_getD_replicate_default_eq ..

/-- Byte `j` of a field as it is encoded (R130). -/
theorem encodeFieldBytes_getD (e : SchemaEntry) (m : Byte) (v : Vector Word64 8) {i j : Nat} (hj : j < fieldWidth e i) :
    (encodeFieldBytes e m v i).getD j 0 =
      (encodeSource e m v i >>> (8 * (if fieldLittle e i then j else fieldWidth e i - 1 - j))).setWidth 8 := by
  rw [List.getD_eq_getElem _ _ (by simpa using hj)]
  simp only [encodeFieldBytes, List.getElem_map, List.getElem_range]
  rfl

/-- Reading a field of the encoded frame gives the low bytes of the value encoded for it (R132). -/
theorem fieldRaw_encodedData (hv : schemaValid s k e) (m : Byte) (v : Vector Word64 8) {i : Nat} (hi : i < entryFields e) :
    fieldRaw e i (encodedData e m v) = lowBytes (fieldWidth e i) (encodeSource e m v i) := by
  obtain ⟨-, -, -, hwidths, hlen, -⟩ := hv
  rw [fieldRaw_eq, fieldBytes_encodedData hlen m v hi, encodeFieldBytes_eq, lsbFirst_lsbFirst, beValue_lowByteList (hwidths i hi).2]

theorem encodeSource_of_const {i : Nat} (h : fieldConst e i = true) (m : Byte) (v : Vector Word64 8) :
    encodeSource e m v i = fieldDefault e i := by
  simp [encodeSource, h]

/-- The value encoded for a variable field (R130, R136). -/
theorem encodeSource_of_variable {i : Nat} (h : fieldConst e i = false) (m : Byte) (v : Vector Word64 8) :
    encodeSource e m v i = if m.getLsbD i then v.toList.getD i 0 else fieldDefault e i := by
  cases hm : m.getLsbD i <;> simp [encodeSource, h, hm]

/-- An index has at most one valid entry. -/
theorem schemaValid_unique {e' : SchemaEntry} (hv : schemaValid s k e) (hv' : schemaValid s k e') : e = e' :=
  Option.some.inj (((validEntry_some_iff s k e).mpr hv).symm.trans ((validEntry_some_iff s k e').mpr hv'))

/-- The encoded frame satisfies every filter (R133). -/
theorem not_filterFails_encodedData (hv : schemaValid s k e) (m : Byte) (v : Vector Word64 8) {i : Nat} (hi : i < entryFields e) :
    ¬ filterFails e (encodedData e m v) i := by
  rintro ⟨hconst, hne⟩
  rw [fieldRaw_encodedData hv m v hi, encodeSource_of_const hconst] at hne
  exact hne rfl

theorem encodedFrame_dlc (hlen : entryLen e ≤ 8) (who m : Byte) (v : Vector Word64 8) :
    (encodedFrame e who m v).dlc.toNat = entryLen e := by
  rw [encodedFrame, BitVec.toNat_ofNat]
  omega

/-- The encoded identifier of a standard schema fits 11 bits (R131). -/
theorem encodedId_lt (h : (entryId e).toNat < 0x800) (who : Byte) : (encodedId e who).toNat < 0x800 := by
  unfold encodedId
  split
  · rw [BitVec.toNat_or]
    exact Nat.or_lt_two_pow (n := 11) h (by rw [BitVec.toNat_setWidth]; omega)
  · exact h

/-- The encoded frame is well-formed (R131; 00_scope.md R12). -/
theorem frameLegal_encodedFrame (hv : schemaValid s k e) (who m : Byte) (v : Vector Word64 8) :
    frameLegal (encodedFrame e who m v) := by
  obtain ⟨-, -, -, -, hlen, hid⟩ := hv
  exact ⟨(encodedFrame_dlc hlen who m v).trans_le hlen, fun hext => encodedId_lt (hid hext) who⟩

/-- The encoded frame matches its own schema. -/
theorem frameMatches_encodedFrame (hv : schemaValid s k e) (who m : Byte) (v : Vector Word64 8) :
    frameMatches e (encodedFrame e who m v) := by
  have ⟨_, _, _, _, hlen, _⟩ := hv
  refine ⟨fun hfixed => ⟨rfl, ?_⟩, encodedFrame_dlc hlen who m v, fun i hi => not_filterFails_encodedData hv m v hi⟩
  exact if_neg (by simp [hfixed])

/-- The sender decoded from an encoded frame (R136). -/
theorem decodedSender_encodedFrame (e : SchemaEntry) (who m : Byte) (v : Vector Word64 8) :
    decodedSender e (encodedFrame e who m v) = if entryAddressed e then (entryId e).extractLsb' 0 8 ||| who else 0 := by
  have hwho : (who.setWidth 29).extractLsb' 0 8 = who := by
    rw [← BitVec.setWidth_eq_extractLsb' (by decide), BitVec.setWidth_setWidth_of_le _ (by decide), BitVec.setWidth_eq]
  cases h : entryAddressed e with
  | false => simp [decodedSender, h]
  | true => simp [decodedSender, senderOf, encodedFrame, encodedId, h, BitVec.extractLsb'_or, hwho]

/-- A variable field whose value fits comes back from the encoded frame (R136). -/
theorem fieldValue_encodedData (hv : schemaValid s k e) (m : Byte) (v : Vector Word64 8) {i : Nat} (hi : i < entryFields e)
    {x : Word64} (hx : encodeSource e m v i = x) (hunsigned : fieldSigned e i = false → x.toNat < 2 ^ (8 * fieldWidth e i))
    (hsigned : fieldSigned e i = true → x = (x.setWidth (8 * fieldWidth e i)).signExtend 64) :
    fieldValue e i (fieldRaw e i (encodedData e m v)) = x := by
  have ⟨_, _, _, hwidths, _, _⟩ := hv
  rw [fieldRaw_encodedData hv m v hi, hx]
  exact fieldValue_lowBytes (hwidths i hi).2 hunsigned hsigned

end Encoded

/-! ## Match (R126) -/

section Match
variable {k : Nat} {e : SchemaEntry} {f : RawFrame} {i : Nat} {r : Result}

/-- The result of a frame that matches its schema. -/
def fieldsResult (k : Nat) (e : SchemaEntry) (f : RawFrame) : Result :=
  .fields k (entryFields e) (decodedValues e f.data) (decodedSender e f)

theorem matchEntry_of_not_addressFits (h : ¬ addressFits e f) :
    matchEntry k e f = .err .addressMismatch (.address (entryId e) (entryExt e) f.id f.ext) := by
  rw [← addrMatch_iff] at h
  rw [matchEntry, if_pos (by simpa using h)]

theorem matchEntry_of_dlc_ne (ha : addressFits e f) (hl : f.dlc.toNat ≠ entryLen e) :
    matchEntry k e f = .err .lengthMismatch (.lengths (entryLen e) f.dlc.toNat) := by
  rw [matchEntry, (addrMatch_iff e f).mpr ha, if_neg (by decide), if_pos hl]

/-- Past the identifier and the length only the filters decide. -/
theorem matchEntry_of_dlc_eq (ha : addressFits e f) (hl : f.dlc.toNat = entryLen e) :
    matchEntry k e f =
      match firstViolation e f.data with
      | some i => .err .fieldConstraintViolation (.field i (fieldRaw e i f.data) (fieldRequired e i))
      | none => .ok (fieldsResult k e f) := by
  rw [matchEntry, (addrMatch_iff e f).mpr ha, if_neg (by decide), if_neg (not_not.mpr hl)]
  rfl

theorem matchEntry_of_filterFails (ha : addressFits e f) (hl : f.dlc.toNat = entryLen e) (hi : i < entryFields e)
    (hf : filterFails e f.data i) (hleast : ∀ j, j < i → ¬ filterFails e f.data j) :
    matchEntry k e f = .err .fieldConstraintViolation (.field i (fieldRaw e i f.data) (fieldRequired e i)) := by
  rw [matchEntry_of_dlc_eq ha hl, (firstViolation_some_iff e f.data i).mpr ⟨hi, hf, hleast⟩]

/-- `Match` succeeds on exactly the frames that match, with the fields and the sender. -/
theorem matchEntry_ok_iff : matchEntry k e f = .ok r ↔ frameMatches e f ∧ r = fieldsResult k e f := by
  by_cases ha : addressFits e f
  · by_cases hl : f.dlc.toNat = entryLen e
    · rw [matchEntry_of_dlc_eq ha hl, frameMatches, ← firstViolation_none_iff]
      cases firstViolation e f.data with
      | none => simp [ha, hl, eq_comm]
      | some i => simp
    · simp [matchEntry_of_dlc_ne ha hl, frameMatches, hl]
  · simp [matchEntry_of_not_addressFits ha, frameMatches, ha]

theorem matchEntry_of_matches (h : frameMatches e f) : matchEntry k e f = .ok (fieldsResult k e f) :=
  matchEntry_ok_iff.mpr ⟨h, rfl⟩

end Match

/-! ## CODEC_DECODE (R121) -/

section Decode
variable {s : State} {k : Byte} {e : SchemaEntry} {f : RawFrame} {r : Result} {c : Code} {info : Info}

theorem exec_codecDecode_invalid (h : ∀ e, ¬ schemaValid s k.toNat e) (f : RawFrame) :
    exec (.codecDecode k f) s = raise s .badSchema (.index k.toNat) := by
  change execCodecDecode k f s = _
  rw [execCodecDecode, (validEntry_none_iff s k.toNat).mpr h]

theorem exec_codecDecode_malformed (hv : schemaValid s k.toNat e) (hf : ¬ frameLegal f) :
    exec (.codecDecode k f) s = raise s .malformedFrame .empty := by
  rw [← wellFormedFrame_iff] at hf
  change execCodecDecode k f s = _
  rw [execCodecDecode, (validEntry_some_iff s k.toNat e).mpr hv]
  exact if_pos (by simpa using hf)

/-- With a valid schema and a well-formed frame the command answers as `Match` does. -/
theorem exec_codecDecode_legal (hv : schemaValid s k.toNat e) (hf : frameLegal f) :
    exec (.codecDecode k f) s =
      match matchEntry k.toNat e f with
      | .err c info => raise s c info
      | .ok r => done s [.result r] := by
  change execCodecDecode k f s = _
  rw [execCodecDecode, (validEntry_some_iff s k.toNat e).mpr hv]
  exact if_neg (by simpa using (wellFormedFrame_iff f).mpr hf)

theorem exec_codecDecode_err (hv : schemaValid s k.toNat e) (hf : frameLegal f) (h : matchEntry k.toNat e f = .err c info) :
    exec (.codecDecode k f) s = raise s c info := by
  rw [exec_codecDecode_legal hv hf, h]

theorem exec_codecDecode_matches (hv : schemaValid s k.toNat e) (hf : frameLegal f) (h : frameMatches e f) :
    exec (.codecDecode k f) s = done s [.result (fieldsResult k.toNat e f)] := by
  rw [exec_codecDecode_legal hv hf, matchEntry_of_matches h]

end Decode

/-! ## CODEC_ENCODE (R130) -/

section Encode
variable {s t : State} {k : Byte} {e : SchemaEntry} {f : RawFrame}

theorem exec_codecEncode_invalid (h : ∀ e, ¬ schemaValid s k.toNat e) (who m : Byte) (v : Vector Word64 8) :
    exec (.codecEncode k who m v) s = raise s .badSchema (.index k.toNat) := by
  change execCodecEncode k who m v s = _
  rw [execCodecEncode, (validEntry_none_iff s k.toNat).mpr h]

theorem exec_codecEncode_valid (hv : schemaValid s k.toNat e) (who m : Byte) (v : Vector Word64 8) :
    exec (.codecEncode k who m v) s = done s [.result (.frame (encodedFrame e who m v))] := by
  change execCodecEncode k who m v s = _
  rw [execCodecEncode, (validEntry_some_iff s k.toNat e).mpr hv]

/-- A frame CODEC_ENCODE emits is the encoded frame of a valid schema. -/
theorem encodedFrame_of_exec {who m : Byte} {v : Vector Word64 8} (h : exec (.codecEncode k who m v) s = .next t)
    (hf : Event.result (.frame f) ∈ newEvents s t) : ∃ e, schemaValid s k.toNat e ∧ f = encodedFrame e who m v := by
  by_cases hv : ∃ e, schemaValid s k.toNat e
  · obtain ⟨e, he⟩ := hv
    rw [exec_codecEncode_valid he, done_eq] at h
    cases h
    rw [newEvents_append _ _ _ rfl] at hf
    exact ⟨e, he, by simpa using hf⟩
  · rw [exec_codecEncode_invalid (not_exists.mp hv), raise_eq] at h
    cases h
    rw [newEvents_append _ _ _ rfl] at hf
    simp at hf

end Encode

/-! ## CODEC_CLASSIFY (R135) -/

section Classify
variable {s : State} {k n : Byte} {f : RawFrame} {e : SchemaEntry} {i j : Nat} {r : Result}

theorem mem_classifyRange : i ∈ classifyRange k n ↔ ∃ j, j < n.toNat ∧ k.toNat + j = i := by
  simp [classifyRange]

/-- The range at one of its indices: the indices before it, itself, and those after. -/
theorem classifyRange_split (k : Byte) (hj : j < n.toNat) :
    ∃ rest, classifyRange k n = (List.range j).map (k.toNat + ·) ++ (k.toNat + j) :: rest := by
  obtain ⟨d, hd⟩ : ∃ d, n.toNat = j + (d + 1) := ⟨n.toNat - j - 1, by omega⟩
  rw [classifyRange, hd, List.range_add, List.map_append, List.range_succ_eq_map, List.map_cons, List.map_cons]
  exact ⟨_, rfl⟩

theorem matchAt_some_iff : matchAt s f i = some r ↔ ∃ e, schemaValid s i e ∧ frameMatches e f ∧ r = fieldsResult i e f := by
  simp only [← validEntry_some_iff, ← matchEntry_ok_iff]
  unfold matchAt
  cases validEntry s i with
  | none => simp
  | some e => cases h : matchEntry i e f <;> simp [h]

theorem matchAt_none_iff : matchAt s f i = none ↔ ∀ e, schemaValid s i e → ¬ frameMatches e f := by
  rw [Option.eq_none_iff_forall_ne_some]
  constructor
  · exact fun h e he hm => h _ (matchAt_some_iff.mpr ⟨e, he, hm, rfl⟩)
  · intro h r hr
    obtain ⟨e, he, hm, -⟩ := matchAt_some_iff.mp hr
    exact h e he hm

/-- The lowest invalid index of the range is reported before anything else is checked. -/
theorem exec_codecClassify_invalid (hj : j < n.toNat) (hbad : ∀ e, ¬ schemaValid s (k.toNat + j) e)
    (hgood : ∀ j', j' < j → ∃ e, schemaValid s (k.toNat + j') e) (f : RawFrame) :
    exec (.codecClassify k n f) s = raise s .badSchema (.index (k.toNat + j)) := by
  obtain ⟨rest, hsplit⟩ := classifyRange_split k hj
  have hfind : (classifyRange k n).find? (fun i => (validEntry s i).isNone) = some (k.toNat + j) := by
    rw [List.find?_eq_some_iff_append, (validEntry_none_iff s _).mpr hbad]
    refine ⟨rfl, _, rest, hsplit, List.forall_mem_map.mpr fun j' hj' => ?_⟩
    obtain ⟨e, he⟩ := hgood j' (List.mem_range.mp hj')
    rw [(validEntry_some_iff s _ e).mpr he]
    rfl
  change execCodecClassify k n f s = _
  rw [execCodecClassify, hfind]

/-- No index of a valid range is found invalid. -/
theorem find_invalid_eq_none (h : ∀ j, j < n.toNat → ∃ e, schemaValid s (k.toNat + j) e) :
    (classifyRange k n).find? (fun i => (validEntry s i).isNone) = none := by
  rw [List.find?_eq_none]
  intro i hi
  obtain ⟨j, hj, rfl⟩ := mem_classifyRange.mp hi
  obtain ⟨e, he⟩ := h j hj
  simp [(validEntry_some_iff s _ e).mpr he]

theorem exec_codecClassify_malformed (h : ∀ j, j < n.toNat → ∃ e, schemaValid s (k.toNat + j) e) (hf : ¬ frameLegal f) :
    exec (.codecClassify k n f) s = raise s .malformedFrame .empty := by
  rw [← wellFormedFrame_iff] at hf
  change execCodecClassify k n f s = _
  rw [execCodecClassify, find_invalid_eq_none h]
  exact if_pos (by simpa using hf)

/-- Over a valid range a well-formed frame is answered by the first schema that matches. -/
theorem exec_codecClassify_legal (h : ∀ j, j < n.toNat → ∃ e, schemaValid s (k.toNat + j) e) (hf : frameLegal f) :
    exec (.codecClassify k n f) s =
      match (classifyRange k n).findSome? (matchAt s f) with
      | some r => done s [.result r]
      | none => raise s .noMatch (.count n.toNat) := by
  change execCodecClassify k n f s = _
  rw [execCodecClassify, find_invalid_eq_none h]
  exact if_neg (by simpa using (wellFormedFrame_iff f).mpr hf)

theorem exec_codecClassify_matches (h : ∀ j, j < n.toNat → ∃ e, schemaValid s (k.toNat + j) e) (hf : frameLegal f)
    (hj : j < n.toNat) (hv : schemaValid s (k.toNat + j) e) (hm : frameMatches e f)
    (hfirst : ∀ j' e', j' < j → schemaValid s (k.toNat + j') e' → ¬ frameMatches e' f) :
    exec (.codecClassify k n f) s = done s [.result (fieldsResult (k.toNat + j) e f)] := by
  obtain ⟨rest, hsplit⟩ := classifyRange_split k hj
  have hfind : (classifyRange k n).findSome? (matchAt s f) = some (fieldsResult (k.toNat + j) e f) := by
    rw [List.findSome?_eq_some_iff]
    refine ⟨_, _, rest, hsplit, matchAt_some_iff.mpr ⟨e, hv, hm, rfl⟩, List.forall_mem_map.mpr fun j' hj' => ?_⟩
    exact matchAt_none_iff.mpr fun e' => hfirst j' e' (List.mem_range.mp hj')
  rw [exec_codecClassify_legal h hf, hfind]

theorem exec_codecClassify_noMatch (h : ∀ j, j < n.toNat → ∃ e, schemaValid s (k.toNat + j) e) (hf : frameLegal f)
    (hnone : ∀ j e, j < n.toNat → schemaValid s (k.toNat + j) e → ¬ frameMatches e f) :
    exec (.codecClassify k n f) s = raise s .noMatch (.count n.toNat) := by
  have hfind : (classifyRange k n).findSome? (matchAt s f) = none := by
    rw [List.findSome?_eq_none_iff]
    intro i hi
    obtain ⟨j, hj, rfl⟩ := mem_classifyRange.mp hi
    exact matchAt_none_iff.mpr fun e => hnone j e hj
  rw [exec_codecClassify_legal h hf, hfind]

end Classify

end Sys2Proof.Machine
end

section
/-! The obligations on the codec (40_codec.md). -/

namespace Sys2Proof.Machine

/-- Settles O43: the encoded frame is legal and matches its own schema, and each variable field reads back as the value that fitted it. -/
theorem encodeDecodeRoundTrip : Obligations.EncodeDecodeRoundTrip := by
  unfold Obligations.EncodeDecodeRoundTrip
  intro s k who m v e hv x hfits
  have hdecode := exec_codecDecode_matches hv (frameLegal_encodedFrame hv who m v) (frameMatches_encodedFrame hv who m v)
  rw [fieldsResult, decodedSender_encodedFrame] at hdecode
  refine ⟨_, _, exec_codecEncode_valid hv who m v, hdecode, by simp [decodedValues], fun i hi hvar => ?_⟩
  obtain ⟨hunsigned, hsigned⟩ := hfits i hi hvar
  have hvalue := fieldValue_encodedData hv m v hi (encodeSource_of_variable hvar m v) hunsigned hsigned
  rw [decodedValues, List.getElem?_map, List.getElem?_range hi]
  exact congrArg some hvalue

/-- Settles O22: each check of a codec command goes the same way in two states with one schema table. -/
theorem codecSeesOnlySchemas : Obligations.CodecSeesOnlySchemas := by
  unfold Obligations.CodecSeesOnlySchemas
  intro i s u hi hsch
  exact exec_alike_of_isCodec hi hsch

/-- Settles O37: an invalid schema and a malformed frame come before `Match`, whose outcome the command then reports. -/
theorem codecDecodeResult : Obligations.CodecDecodeResult := by
  unfold Obligations.CodecDecodeResult
  intro s k f
  refine ⟨fun h => exec_codecDecode_invalid h f, fun e hv => ⟨fun hf => exec_codecDecode_malformed hv hf, ?_, ?_, ?_, ?_⟩⟩
  · exact fun hf ha => exec_codecDecode_err hv hf (matchEntry_of_not_addressFits ha)
  · exact fun hf ha hl => exec_codecDecode_err hv hf (matchEntry_of_dlc_ne ha hl)
  · exact fun i hf ha hl hi hfail hleast => exec_codecDecode_err hv hf (matchEntry_of_filterFails ha hl hi hfail hleast)
  · exact fun hf hm => exec_codecDecode_matches hv hf hm

/-- Settles O38: a field's bytes, put least significant first, are the base-256 digits of its raw value. -/
theorem fieldBytesInOrder : Obligations.FieldBytesInOrder := by
  unfold Obligations.FieldBytesInOrder
  refine ⟨fun e => ⟨fieldOffset_zero e, fieldOffset_succ e⟩, fun e i data _ hfit => ⟨fun hbig => ?_, fun hlittle => ?_⟩⟩
  · exact fieldRaw_big_toNat hbig hfit data
  · exact fieldRaw_little_toNat hlittle hfit data

/-- Settles O39: a raw value that fits its field loses nothing when it is cut to the field's bits, whose top one is the sign. -/
theorem fieldValueSignExtends : Obligations.FieldValueSignExtends := by
  unfold Obligations.FieldValueSignExtends
  intro e i raw h1 h8 hraw
  refine ⟨fun hunsigned => ?_, fun hsigned => ?_⟩
  · rw [fieldValue, hunsigned, if_neg Bool.false_ne_true]
  · rw [fieldValue, if_pos hsigned]
    exact toInt_signExtend_setWidth (by omega) (by omega) hraw

/-- Settles O40: each field's bytes stand at its offset in the encoded frame, and zeros follow the last field. -/
theorem codecEncodeResult : Obligations.CodecEncodeResult := by
  unfold Obligations.CodecEncodeResult
  intro s k who m v
  refine ⟨fun h => exec_codecEncode_invalid h who m v, fun e hv => ⟨_, exec_codecEncode_valid hv who m v, rfl, rfl, ?_⟩⟩
  obtain ⟨-, -, -, -, hlen, -⟩ := hv
  refine ⟨encodedFrame_dlc hlen who m v, fun i j hi hj => ?_, fun p hp _ => encodedData_getD_of_ge hlen m v hp⟩
  rw [← fieldBytes_getD hj, encodedFrame, fieldBytes_encodedData hlen m v hi, encodeFieldBytes_getD e m v hj, encodeSource]
  simp

/-- Settles O41: the length of a valid schema is at most 8, and the sender byte leaves a standard identifier within 11 bits. -/
theorem encodedFrameIsWellFormed : Obligations.EncodedFrameIsWellFormed := by
  unfold Obligations.EncodedFrameIsWellFormed
  intro s t k who m v f hexec hf
  obtain ⟨e, hv, rfl⟩ := encodedFrame_of_exec hexec hf
  exact frameLegal_encodedFrame hv who m v

/-- Settles O42: a filter field is encoded from its required value, whatever M and V say. -/
theorem encodedFrameMeetsFilters : Obligations.EncodedFrameMeetsFilters := by
  unfold Obligations.EncodedFrameMeetsFilters
  intro s t k who m v f e hv hexec hf i hi
  obtain ⟨e', hv', rfl⟩ := encodedFrame_of_exec hexec hf
  obtain rfl : e = e' := schemaValid_unique hv hv'
  exact not_filterFails_encodedData hv m v hi

/-- Settles O44: the range is searched for an invalid schema first, and then, past the frame check, for a match. -/
theorem codecClassifyResult : Obligations.CodecClassifyResult := by
  unfold Obligations.CodecClassifyResult
  intro s k n f
  refine ⟨fun j hj hbad hgood => exec_codecClassify_invalid hj hbad hgood f, fun hall => ⟨?_, fun hf => ⟨?_, ?_⟩⟩⟩
  · exact fun hf => exec_codecClassify_malformed hall hf
  · exact fun j e hj hv hm hfirst => exec_codecClassify_matches hall hf hj hv hm hfirst
  · exact fun hnone => exec_codecClassify_noMatch hall hf hnone

end Sys2Proof.Machine
end

section
/-! SUPPORT. How a frame comes to its handler: the acceptance checks of TP_RX, the classifier, and the frame kinds (41_framer_rx.md
R161-R164). -/

namespace Sys2Proof.Machine

variable {s : State} {f : RawFrame} {who : Byte} {d : Vector Byte 8} {i : Instr} {e : Code × Info}

/-! ## Acceptance (R162) -/

theorem exec_tpRx_of_acceptError (h : acceptError f s = some e) : exec (.tpRx f) s = raise s e.1 e.2 := by
  change execTpRx f s = _
  rw [execTpRx, h]

theorem exec_tpRx_of_acceptable (h : acceptable f s) :
    exec (.tpRx f) s = rxClassified (senderOf f) (classifyPci f.data) s := by
  change execTpRx f s = _
  rw [execTpRx, (acceptError_none_iff f s).mpr h]

theorem acceptError_of_disabled (h : enabled s = false) (f : RawFrame) : acceptError f s = some (.notConfigured, .empty) := by
  simp [acceptError, h]

/-- Past the EN check, a frame that is not legal is malformed. -/
theorem acceptError_of_not_frameLegal (hen : enabled s = true) (hf : ¬ frameLegal f) :
    acceptError f s = some (.malformedFrame, .empty) := by
  simp [acceptError, hen, (wellFormedFrame_iff f).not.mpr hf]

/-- Past the EN and form checks, the identifier, the length and the recipient are looked at in this order. -/
theorem acceptError_of_frameLegal (hen : enabled s = true) (hf : frameLegal f) :
    acceptError f s =
      if f.ext = true ∨ f.id.extractLsb' 8 3 ≠ (baseId s).extractLsb' 8 3 then some (.notAddressed, .reasonId f.id f.ext)
      else if f.dlc ≠ 8 then some (.lengthMismatch, .lengths 8 f.dlc.toNat)
      else if f.data[0] ≠ localAddr s then some (.notAddressed, .reasonRecipient f.data[0])
      else none := by
  simp only [acceptError, hen, (wellFormedFrame_iff f).mpr hf, Bool.not_true, Bool.false_eq_true, if_false]

/-! ## Classification (R164) -/

theorem classifyPci_of_sf (h : pciType d = 0) : classifyPci d = sfPci (pciNibble d) (dataFrom2 d) := by
  rw [classifyPci, if_pos h]

theorem classifyPci_of_ff (h : pciType d = 1) : classifyPci d = ffPci (ffLength d) (dataFrom3 d) := by
  simp [classifyPci, h]

theorem classifyPci_of_cf (h : pciType d = 2) : classifyPci d = cfPci (pciNibble d) (dataFrom2 d) := by
  simp [classifyPci, h]

theorem classifyPci_of_fc (h : pciType d = 3) : classifyPci d = fcPci (pciNibble d) d[2] d[3] := by
  simp [classifyPci, h]

/-- The type nibbles 4..15 spell no kind (R187). -/
theorem classifyPci_of_four_le (h : 4 ≤ (pciType d).toNat) : classifyPci d = .err .invalidFrameType (.frameType (pciType d)) := by
  have hne : pciType d ≠ 0 ∧ pciType d ≠ 1 ∧ pciType d ≠ 2 ∧ pciType d ≠ 3 := by
    refine ⟨?_, ?_, ?_, ?_⟩ <;> intro ht <;> simp [ht] at h
  obtain ⟨h0, h1, h2, h3⟩ := hne
  rw [classifyPci, if_neg h0, if_neg h1, if_neg h2, if_neg h3]

theorem sfPci_of_legal {dl : Nibble} (h1 : 1 ≤ dl.toNat) (h6 : dl.toNat ≤ 6) (b : Vector Byte 6) :
    sfPci dl b = .sf (b.toList.take dl.toNat) dl := by
  have hne : dl ≠ 0 := by rintro rfl; simp at h1
  rw [sfPci, if_neg (not_or.mpr ⟨hne, not_lt.mpr h6⟩)]

theorem sfPci_of_illegal {dl : Nibble} (h : dl.toNat = 0 ∨ 7 ≤ dl.toNat) (b : Vector Byte 6) :
    sfPci dl b = .err .invalidSfLength (.length dl.toNat) := by
  rw [sfPci, if_pos (h.imp (fun h0 => BitVec.eq_of_toNat_eq h0) (fun h7 => h7))]

theorem ffPci_of_ne_zero {len : Length12} (h : len ≠ 0) (b : Vector Byte 5) :
    ffPci len b = .ff len (b.toList.take (min len.toNat 5)) := by
  rw [ffPci, if_neg h]

/-- A second byte below 16 has type 0 and is its own length nibble. -/
theorem pci_of_lt_sixteen {d : Vector Byte 8} (h : d[1].toNat < 16) : pciType d = 0 ∧ (pciNibble d).toNat = d[1].toNat := by
  refine ⟨(extract_eq_zero_iff _ 4 4).mpr (by omega), ?_⟩
  rw [pciNibble, extract_low_toNat]
  omega

/-! ## The frame kinds -/

theorem dataFrom2_toList (d : Vector Byte 8) : (dataFrom2 d).toList = d.toList.drop 2 := by
  rw [vector8_toList d]
  rfl

theorem dataFrom3_toList (d : Vector Byte 8) : (dataFrom3 d).toList = d.toList.drop 3 := by
  rw [vector8_toList d]
  rfl

/-- A frame kind's instruction does what TP_RX does with the frame once accepted (R161). -/
theorem exec_of_decodeFrame (h : decodeFrame who d = some i) (s : State) : exec i s = rxClassified who (classifyPci d) s := by
  obtain ⟨ht, rfl⟩ | ⟨ht, rfl⟩ | ⟨ht, rfl⟩ | ⟨ht, rfl⟩ := decodeFrame_some_cases h
  · rw [classifyPci_of_sf ht]; rfl
  · rw [classifyPci_of_ff ht]; rfl
  · rw [classifyPci_of_cf ht]; rfl
  · rw [classifyPci_of_fc ht]; rfl

theorem exec_tpRx_of_decodeFrame (ha : acceptable f s) (h : decodeFrame (senderOf f) f.data = some i) :
    exec (.tpRx f) s = exec i s :=
  (exec_tpRx_of_acceptable ha).trans (exec_of_decodeFrame h s).symm

/-- The data of a kind from `who` decode to the kind, when they come from `who`. -/
theorem decodeFrame_of_encodeFrame {r : Byte} {kind : FrameKind} (hc : Carries i kind who) (h : encodeFrame r i = some d) :
    decodeFrame who d = some i := by
  obtain ⟨-, w, hw⟩ := decodeFrame_encodeFrame h
  have hsender : w = who := by
    obtain ⟨-, hi⟩ | ⟨-, hi⟩ | ⟨-, hi⟩ | ⟨-, hi⟩ := decodeFrame_some_cases hw <;> subst hi <;> cases hc <;> rfl
  exact hsender ▸ hw

end Sys2Proof.Machine
end

section
/-! SUPPORT. The framer and the schema table (20_memory.md R74, 41_framer_rx.md R160): what runs alike whatever the table holds. -/

namespace Sys2Proof.Machine

/-- Two outcomes, the second that of the same command with `table` for schema table: both answer, with states that differ only in it. -/
def AgreesUpTo (table : List SchemaEntry) (o o' : Host.Outcome State Fault Refusal) : Prop :=
  ∃ t, o = .next t ∧ o' = .next (setSch t table)

variable {table : List SchemaEntry}

theorem agreesUpTo_finish (u : State) (es : List Event) (c : Code) (info : Info) :
    AgreesUpTo table (finish u es c info) (finish (setSch u table) es c info) :=
  ⟨_, rfl, rfl⟩

theorem AgreesUpTo.ite {p : Prop} [Decidable p] {a a' b b' : Host.Outcome State Fault Refusal} (ha : AgreesUpTo table a a')
    (hb : AgreesUpTo table b b') : AgreesUpTo table (if p then a else b) (if p then a' else b') := by
  split
  · exact ha
  · exact hb

/-! ## What the framer looks at -/

@[simp] theorem acceptError_setSch (f : RawFrame) (s : State) (table : List SchemaEntry) :
    acceptError f (setSch s table) = acceptError f s := rfl

@[simp] theorem selectSlotFf_setSch (who : Byte) (s : State) (table : List SchemaEntry) :
    selectSlotFf who (setSch s table) = selectSlotFf who s := rfl

@[simp] theorem slotOfSender_setSch (s : State) (table : List SchemaEntry) (who : Byte) :
    slotOfSender (setSch s table) who = slotOfSender s who := rfl

@[simp] theorem slotAt_setSch (s : State) (table : List SchemaEntry) (k : Nat) : slotAt (setSch s table) k = slotAt s k := rfl

theorem drainFrames_setSch (s : State) (table : List SchemaEntry) (r : Byte) (fuel : Nat) (rem : List Byte) (sn : Nibble) :
    drainFrames (setSch s table) r fuel rem sn = drainFrames s r fuel rem sn := by
  induction fuel generalizing rem sn with
  | zero => rfl
  | succ fuel ih =>
    rw [drainFrames, drainFrames, ih]
    rfl

/-! ## The handlers -/

theorem execTpSend_agrees (r : Byte) (p : List Byte) (s : State) :
    AgreesUpTo table (execTpSend r p s) (execTpSend r p (setSch s table)) :=
  .ite (agreesUpTo_finish ..) (.ite (agreesUpTo_finish ..) (.ite (agreesUpTo_finish ..) (agreesUpTo_finish ..)))

theorem execTpDiscard_agrees (who : Byte) (all : Bool) (s : State) :
    AgreesUpTo table (execTpDiscard who all s) (execTpDiscard who all (setSch s table)) :=
  .ite (agreesUpTo_finish ..) (agreesUpTo_finish ..)

theorem rxFc_agrees (who : Byte) (fs : Nibble) (s : State) : AgreesUpTo table (rxFc who fs s) (rxFc who fs (setSch s table)) := by
  refine .ite (agreesUpTo_finish ..) ?_
  rw [setSch_tx]
  cases s.tx with
  | none => exact agreesUpTo_finish ..
  | pending r rem sn =>
    refine .ite (agreesUpTo_finish ..) (.ite ?_ (.ite (agreesUpTo_finish ..) (agreesUpTo_finish ..)))
    rw [drain, drain, drainFrames_setSch]
    exact agreesUpTo_finish ..

theorem rxFf_agrees (who : Byte) (len : Length12) (chunk : List Byte) (s : State) :
    AgreesUpTo table (rxFf who len chunk s) (rxFf who len chunk (setSch s table)) := by
  rw [rxFf, rxFf, selectSlotFf_setSch]
  cases selectSlotFf who s with
  | none => exact agreesUpTo_finish ..
  | some k => exact .ite (agreesUpTo_finish ..) (agreesUpTo_finish ..)

theorem cfIntoSlot_agrees (who : Byte) (sn : Nibble) (b : Vector Byte 6) (k : Nat) (r : Reassembly) (s : State) :
    AgreesUpTo table (cfIntoSlot who sn b k r s) (cfIntoSlot who sn b k r (setSch s table)) :=
  .ite (agreesUpTo_finish ..) (.ite (agreesUpTo_finish ..) (agreesUpTo_finish ..))

theorem rxCf_agrees (who : Byte) (sn : Nibble) (b : Vector Byte 6) (s : State) :
    AgreesUpTo table (rxCf who sn b s) (rxCf who sn b (setSch s table)) := by
  rw [rxCf, rxCf, slotOfSender_setSch]
  refine .ite ?_ ?_
  · rw [slotAt_setSch]
    cases slotAt s 0 with
    | idle => exact agreesUpTo_finish ..
    | receiving r => exact .ite (agreesUpTo_finish ..) (cfIntoSlot_agrees ..)
  · cases slotOfSender s who with
    | none => exact agreesUpTo_finish ..
    | some k =>
      simp only [slotAt_setSch]
      cases slotAt s k with
      | idle => exact agreesUpTo_finish ..
      | receiving r => exact cfIntoSlot_agrees ..

theorem rxClassified_agrees (who : Byte) (p : Pci) (s : State) :
    AgreesUpTo table (rxClassified who p s) (rxClassified who p (setSch s table)) := by
  cases p with
  | err c info => exact agreesUpTo_finish ..
  | sf bytes n => exact agreesUpTo_finish ..
  | ff len chunk => exact rxFf_agrees ..
  | cf sn b => exact rxCf_agrees ..
  | fc fs bs st => exact rxFc_agrees ..

theorem execTpRx_agrees (f : RawFrame) (s : State) : AgreesUpTo table (execTpRx f s) (execTpRx f (setSch s table)) := by
  rw [execTpRx, execTpRx, acceptError_setSch]
  cases acceptError f s with
  | some e => exact agreesUpTo_finish ..
  | none => exact rxClassified_agrees ..

theorem execTpClassify_agrees (f : RawFrame) (s : State) :
    AgreesUpTo table (execTpClassify f s) (execTpClassify f (setSch s table)) := by
  obtain ⟨es, h, h'⟩ := execTpClassify_alike s (setSch s table) f
  exact ⟨_, h, h'⟩

/-- A framer instruction runs alike whatever the schema table holds. -/
theorem exec_agrees_of_isFramer {i : Instr} (hi : isFramer i = true) (s : State) :
    AgreesUpTo table (exec i s) (exec i (setSch s table)) := by
  cases i with
  | tpRx f => exact execTpRx_agrees f s
  | tpSend r p => exact execTpSend_agrees r p s
  | tpClassify f => exact execTpClassify_agrees f s
  | tpDiscard who all => exact execTpDiscard_agrees who all s
  | isotpSf who dl b => exact rxClassified_agrees who (sfPci dl b) s
  | isotpFf who len b => exact rxClassified_agrees who (ffPci len b) s
  | isotpCf who sn b => exact rxClassified_agrees who (cfPci sn b) s
  | isotpFc who fs bs st padding => exact rxClassified_agrees who (fcPci fs bs st) s
  | _ => cases hi

/-- A framer instruction writes no schema entry. -/
theorem exec_sch_eq_of_isFramer {i : Instr} {s t : State} (hi : isFramer i = true) (h : exec i s = .next t) : t.sch = s.sch := by
  obtain ⟨u, es, c, info, heff, rfl⟩ := effect_of_exec h
  by_contra hne
  obtain ⟨k, w, v, rfl⟩ := heff.schWrite_of_sch_ne hne
  cases hi

end Sys2Proof.Machine
end

section
/-! SUPPORT. What each receiving frame kind, TP_CLASSIFY and TP_DISCARD do in the case they are in: the slot a frame takes, and the state it
leaves (41_framer_rx.md R166-R191). -/

namespace Sys2Proof.Machine

variable {s : State} {who : Byte} {k : Nat} {r : Reassembly} {len : Length12} {sn : Nibble}

/-! ## Single frames (R166, R167) -/

theorem exec_isotpSf_legal {dl : Nibble} (h1 : 1 ≤ dl.toNat) (h6 : dl.toNat ≤ 6) (who : Byte) (b : Vector Byte 6) (s : State) :
    exec (.isotpSf who dl b) s = done s [.rxPayload who (b.toList.take dl.toNat)] := by
  change rxClassified who (sfPci dl b) s = _
  rw [sfPci_of_legal h1 h6]
  rfl

theorem exec_isotpSf_illegal {dl : Nibble} (h : dl.toNat = 0 ∨ 7 ≤ dl.toNat) (who : Byte) (b : Vector Byte 6) (s : State) :
    exec (.isotpSf who dl b) s = raise s .invalidSfLength (.length dl.toNat) := by
  change rxClassified who (sfPci dl b) s = _
  rw [sfPci_of_illegal h]
  rfl

/-! ## The slot a first frame takes (R170) -/

/-- Where no slot receives from the sender and, in PER_PEER mode, one is IDLE, an FF has the slot R170 gives it. -/
theorem exists_ffSlot (hnone : noneReceivingFrom who s) (hidle : perPeer s = true → Slot.idle ∈ s.slots) (hpos : 0 < s.slots.length) :
    ∃ k, ffSlot who s k ∧ k < s.slots.length := by
  cases hp : perPeer s with
  | false => exact ⟨0, ⟨fun _ => ⟨rfl, hpos⟩, fun hm => by simp [hp] at hm⟩, hpos⟩
  | true =>
    cases hl : leastIdle s with
    | none => exact absurd (hidle hp) ((leastIdle_none_iff s).mp hl)
    | some k =>
      have hk := (leastIdle_some_iff s k).mp hl
      exact ⟨k, ⟨fun hm => by simp [hp] at hm, fun _ => .inr ⟨hnone, hk⟩⟩, (List.getElem?_eq_some_iff.mp hk.1).1⟩

/-- The slot R170 gives a sender that no slot receives from, whether or not the table is legal. -/
theorem selectSlotFf_of_noneReceivingFrom (hnone : noneReceivingFrom who s) (h : ffSlot who s k) : selectSlotFf who s = some k := by
  obtain ⟨hsingle, hpeers⟩ := h
  cases hp : perPeer s with
  | false => simp [selectSlotFf, hp, (hsingle hp).1]
  | true =>
    obtain ⟨r, hr, hs⟩ | ⟨-, hk⟩ := hpeers hp
    · exact absurd hs (hnone r (List.mem_of_getElem? hr))
    · simp [selectSlotFf, hp, (slotOfSender_none_iff s who).mpr hnone, (leastIdle_some_iff s k).mpr hk]

theorem selectSlotFf_eq_none (hp : perPeer s = true) (hnone : noneReceivingFrom who s) (hbusy : Slot.idle ∉ s.slots) :
    selectSlotFf who s = none := by
  simp [selectSlotFf, hp, (slotOfSender_none_iff s who).mpr hnone, (leastIdle_none_iff s).mpr hbusy]

/-- The slot R170 gives a sender that no slot receives from is free for it. -/
theorem slotFree_of_ffSlot (hnone : noneReceivingFrom who s) (h : ffSlot who s k) : slotFree who s k :=
  ⟨fun hp => (h.1 hp).1, fun _ _ q hq hs => absurd hs (hnone q (List.mem_of_getElem? hq))⟩

/-- A slot stays free for a sender when it is itself written. -/
theorem slotFree_setSlot (h : slotFree who s k) (v : Slot) : slotFree who (setSlot s k v) k := by
  obtain ⟨hsingle, hpeers⟩ := h
  refine ⟨hsingle, fun hp j q hq hs => ?_⟩
  by_contra hne
  rw [setSlot_slots, List.getElem?_set_ne (Ne.symm hne)] at hq
  exact hne (hpeers hp j q hq hs)

/-! ## First frames (R169-R177) -/

/-- The Status an FF ends with is the one R172 names. -/
theorem ffStatus_eq_ffEnding (s : State) (k : Nat) : Event.status (ffStatus s k).1 (ffStatus s k).2 = ffEnding s k := by
  rw [ffStatus, ffEnding, slotAt, List.getD_eq_getElem?_getD]
  cases s.slots[k]? with
  | none => rfl
  | some v => cases v <;> rfl

/-- An FF of length 1..5 holds the whole payload (R174). -/
theorem exec_isotpFf_whole (hk : selectSlotFf who s = some k) (h1 : 1 ≤ len.toNat) (h5 : len.toNat ≤ 5) (b : Vector Byte 5) :
    exec (.isotpFf who len b) s =
      finish (setSlot s k .idle) [.rxPayload who (b.toList.take len.toNat)] (ffStatus s k).1 (ffStatus s k).2 := by
  have hne : len ≠ 0 := by rintro rfl; simp at h1
  have hlen : len.toNat - (b.toList.take len.toNat).length = 0 := by simp; omega
  change rxClassified who (ffPci len b) s = _
  rw [ffPci_of_ne_zero hne, min_eq_left h5, rxClassified, rxFf, hk]
  exact if_pos hlen

/-- An FF of length 6 or more starts a reassembly with its five bytes (R175). -/
theorem exec_isotpFf_starts (hk : selectSlotFf who s = some k) (h6 : 6 ≤ len.toNat) (b : Vector Byte 5) :
    exec (.isotpFf who len b) s =
      finish (setSlot s k (.receiving (startReassembly who len b.toList))) [.txFrame (fcFrame s who)]
        (ffStatus s k).1 (ffStatus s k).2 := by
  have hne : len ≠ 0 := by rintro rfl; simp at h6
  have hlen : len.toNat - b.toList.length ≠ 0 := by simp; omega
  change rxClassified who (ffPci len b) s = _
  rw [ffPci_of_ne_zero hne, min_eq_right (by omega), List.take_of_length_le (by simp), rxClassified, rxFf, hk]
  exact if_neg hlen

/-- The five bytes it holds are off what is outstanding, and the next SN is 1 (R175, R177). -/
theorem startReassembly_eq (who : Byte) (h6 : 6 ≤ len.toNat) (b : Vector Byte 5) :
    startReassembly who len b.toList = { sender := who, dl := len, buf := b.toList, out := len - 5, nsn := 1 } := by
  have hout : BitVec.ofNat 12 (len.toNat - 5) = len - 5 := by bv_omega
  rw [startReassembly, Vector.length_toList, hout]

/-- An FF that starts a reassembly in an IDLE slot supersedes none (R172). -/
theorem exec_isotpFf_starts_fresh (hnone : noneReceivingFrom who s) (hslot : ffSlot who s k) (hidle : s.slots[k]? = some Slot.idle)
    (h6 : 6 ≤ len.toNat) (b : Vector Byte 5) :
    exec (.isotpFf who len b) s =
      done (setSlot s k (.receiving (startReassembly who len b.toList))) [.txFrame (fcFrame s who)] := by
  have hstatus : ffStatus s k = (.ok, .empty) := by rw [ffStatus, slotAt_of_getElem? hidle]
  rw [exec_isotpFf_starts (selectSlotFf_of_noneReceivingFrom hnone hslot) h6, hstatus, done]

theorem exec_isotpFf_zero (who : Byte) (b : Vector Byte 5) (s : State) :
    exec (.isotpFf who 0 b) s = raise s .invalidFfLength (.length 0) := rfl

theorem exec_isotpFf_noSlot (h : selectSlotFf who s = none) (hlen : len ≠ 0) (b : Vector Byte 5) :
    exec (.isotpFf who len b) s = raise s .noSlot (.sender who) := by
  change rxClassified who (ffPci len b) s = _
  rw [ffPci_of_ne_zero hlen, rxClassified, rxFf, h]

/-! ## Consecutive frames (R178-R185) -/

theorem exec_isotpCf (who : Byte) (sn : Nibble) (b : Vector Byte 6) (s : State) :
    exec (.isotpCf who sn b) s = rxCf who sn b s := rfl

/-- Slot `k` receives `r` from `who`, and a CF from `who` has no other slot to go to. The table need not be legal. -/
def Awaits (who : Byte) (s : State) (k : Nat) (r : Reassembly) : Prop :=
  s.slots[k]? = some (Slot.receiving r) ∧ r.sender = who ∧ slotFree who s k

theorem awaits_of_cfSlot (hl : slotsLegal s) (h : cfSlot who s k r) : Awaits who s k r :=
  ⟨h.1, h.2.1, slotFree_of_cfSlot hl h⟩

theorem awaits_setSlot {v : Reassembly} (hlt : k < s.slots.length) (hfree : slotFree who s k) (hs : v.sender = who) :
    Awaits who (setSlot s k (.receiving v)) k v :=
  ⟨by simp [hlt], hs, slotFree_setSlot hfree _⟩

theorem exec_isotpCf_of_awaits (h : Awaits who s k r) (sn : Nibble) (b : Vector Byte 6) :
    exec (.isotpCf who sn b) s = cfIntoSlot who sn b k r s := by
  obtain ⟨hk, hs, hsingle, hpeers⟩ := h
  rw [exec_isotpCf]
  cases hp : perPeer s with
  | false =>
    obtain rfl := hsingle hp
    simp [rxCf, hp, slotAt_of_getElem? hk, hs]
  | true =>
    cases hslot : slotOfSender s who with
    | none => exact absurd hs ((slotOfSender_none_iff s who).mp hslot r (List.mem_of_getElem? hk))
    | some j =>
      obtain ⟨q, hq, hqs⟩ := slotOfSender_some hslot
      obtain rfl := hpeers hp j q hq hqs
      simp [rxCf, hp, hslot, slotAt_of_getElem? hk]

theorem cfIntoSlot_of_ne (h : sn ≠ r.nsn) (who : Byte) (b : Vector Byte 6) (k : Nat) (s : State) :
    cfIntoSlot who sn b k r s = raise (setSlot s k .idle) .protocolViolationSequence (.sequence who r.nsn sn) :=
  if_pos h

/-- A reassembly after a CF whose six bytes it took and that leaves more outstanding (R182, R183). -/
def extend (r : Reassembly) (chunk : List Byte) : Reassembly :=
  { sender := r.sender, dl := r.dl, buf := r.buf ++ chunk, out := r.out - 6, nsn := r.nsn + 1 }

theorem appendCf_eq_extend (h : 7 ≤ r.out.toNat) (b : Vector Byte 6) : appendCf r b = extend r b.toList := by
  have hcount : cfCount r = 6 := min_eq_right (by omega)
  have hout : BitVec.ofNat 12 (r.out.toNat - 6) = r.out - 6 := by bv_omega
  rw [appendCf, extend, hcount, hout, List.take_of_length_le (by simp)]

theorem extend_out (h : 7 ≤ r.out.toNat) (chunk : List Byte) : (extend r chunk).out.toNat = r.out.toNat - 6 := by
  simp only [extend]
  bv_omega

/-- Seven or more bytes outstanding: the CF carries six of them. -/
theorem cfIntoSlot_more (h : 7 ≤ r.out.toNat) (who : Byte) (b : Vector Byte 6) (k : Nat) (s : State) :
    cfIntoSlot who r.nsn b k r s = done (setSlot s k (.receiving (extend r b.toList))) [] := by
  have hout : (extend r b.toList).out ≠ 0 := by
    intro h0
    have hzero : 0 = r.out.toNat - 6 := by simpa [h0] using extend_out h b.toList
    omega
  rw [cfIntoSlot, if_neg (by simp), appendCf_eq_extend h, if_neg hout]

/-- Six bytes or fewer outstanding: the CF carries the last of them (R184). -/
theorem cfIntoSlot_last (h : r.out.toNat ≤ 6) (who : Byte) (b : Vector Byte 6) (k : Nat) (s : State) :
    cfIntoSlot who r.nsn b k r s =
      done (setSlot s k .idle) [.rxPayload who (r.buf ++ b.toList.take r.out.toNat)] := by
  have hcount : cfCount r = r.out.toNat := min_eq_left h
  have hout : (appendCf r b).out = 0 := BitVec.eq_of_toNat_eq (by rw [appendCf_out, hcount, Nat.sub_self]; rfl)
  rw [cfIntoSlot, if_neg (by simp), if_pos hout, appendCf, hcount]

/-- In SINGLE mode a CF from another sender than slot 0 receives from (R180). -/
theorem exec_isotpCf_wrongSender (hp : perPeer s = false) (hr : s.slots[0]? = some (Slot.receiving r)) (hs : r.sender ≠ who)
    (sn : Nibble) (b : Vector Byte 6) :
    exec (.isotpCf who sn b) s = raise (setSlot s 0 .idle) .protocolViolationSender (.senders r.sender who) := by
  rw [exec_isotpCf]
  simp [rxCf, hp, slotAt_of_getElem? hr, hs]

theorem exec_isotpCf_of_idle (hp : perPeer s = false) (h : s.slots[0]? = some Slot.idle) (who : Byte) (sn : Nibble) (b : Vector Byte 6) :
    exec (.isotpCf who sn b) s = raise s .unexpectedCf (.sender who) := by
  rw [exec_isotpCf]
  simp [rxCf, hp, slotAt_of_getElem? h]

theorem exec_isotpCf_of_noneReceivingFrom (hp : perPeer s = true) (h : noneReceivingFrom who s) (sn : Nibble) (b : Vector Byte 6) :
    exec (.isotpCf who sn b) s = raise s .unexpectedCf (.sender who) := by
  rw [exec_isotpCf]
  simp [rxCf, hp, (slotOfSender_none_iff s who).mpr h]

/-! ## After a sequence error (R191) -/

/-- In a legal table, the sender whose slot is emptied has no slot left (10_state.md R37). -/
theorem noneReceivingFrom_setSlot_idle (hl : slotsLegal s) (h : cfSlot who s k r) : noneReceivingFrom who (setSlot s k .idle) := by
  obtain ⟨-, hone, -⟩ := id hl
  obtain ⟨hsingle, hpeers⟩ := slotFree_of_cfSlot hl h
  intro q hq hs
  obtain ⟨j, hj⟩ := List.mem_iff_getElem?.mp hq
  rw [setSlot_slots, List.getElem?_set] at hj
  split at hj
  · split at hj <;> cases hj
  · next hne =>
    cases hp : perPeer s with
    | false => exact hne ((hsingle hp).trans (hone hp j q hj).symm)
    | true => exact hne (hpeers hp j q hj hs).symm

/-- The emptied slot is IDLE, so an FF of that sender takes an IDLE slot: slot 0 in SINGLE mode, the least IDLE one else. -/
theorem exists_ffSlot_idle (hl : slotsLegal s) (h : cfSlot who s k r) :
    ∃ j, ffSlot who (setSlot s k .idle) j ∧ (setSlot s k .idle).slots[j]? = some .idle := by
  have hnone := noneReceivingFrom_setSlot_idle hl h
  obtain ⟨hk, -, hsingle⟩ := h
  have hlt : k < s.slots.length := (List.getElem?_eq_some_iff.mp hk).1
  have hidle : (setSlot s k .idle).slots[k]? = some .idle := by simp [hlt]
  obtain ⟨j, hj, -⟩ := exists_ffSlot hnone (fun _ => List.mem_of_getElem? hidle) (by simp; omega)
  refine ⟨j, hj, ?_⟩
  obtain ⟨hzero, hleast⟩ := hj
  cases hp : perPeer (setSlot s k .idle) with
  | false => rwa [(hzero hp).1, ← hsingle hp]
  | true =>
    obtain ⟨q, hq, hqs⟩ | ⟨-, hji, -⟩ := hleast hp
    · exact absurd hqs (hnone q (List.mem_of_getElem? hq))
    · exact hji

/-! ## TP_CLASSIFY (R188) and TP_DISCARD (R189) -/

section Commands
variable {f : RawFrame}

theorem exec_tpClassify_malformed (hf : ¬ frameLegal f) (s : State) : exec (.tpClassify f) s = raise s .malformedFrame .empty := by
  change execTpClassify f s = _
  simp [execTpClassify, (wellFormedFrame_iff f).not.mpr hf]

theorem exec_tpClassify_length (hf : frameLegal f) (hdlc : f.dlc ≠ 8) (s : State) :
    exec (.tpClassify f) s = raise s .lengthMismatch (.lengths 8 f.dlc.toNat) := by
  change execTpClassify f s = _
  rw [execTpClassify, (wellFormedFrame_iff f).mpr hf, if_neg (by decide), if_pos hdlc]

theorem exec_tpClassify_legal (hf : frameLegal f) (hdlc : f.dlc = 8) (s : State) :
    exec (.tpClassify f) s = classifyResult f (classifyPci f.data) s := by
  change execTpClassify f s = _
  rw [execTpClassify, (wellFormedFrame_iff f).mpr hf, if_neg (by decide), if_neg (by simp [hdlc])]

theorem exec_tpDiscard_disabled (hen : enabled s = false) (who : Byte) (all : Bool) :
    exec (.tpDiscard who all) s = raise s .notConfigured .empty := by
  change execTpDiscard who all s = _
  rw [execTpDiscard, hen, if_pos (by decide)]

theorem exec_tpDiscard_enabled (hen : enabled s = true) (who : Byte) (all : Bool) :
    exec (.tpDiscard who all) s = finish (setSlots s (s.slots.map (fun v => if discards who all v then .idle else v))) []
      .ok (.discarded (s.slots.countP (discards who all))) := by
  change execTpDiscard who all s = _
  rw [execTpDiscard, hen, if_neg (by decide)]

end Commands

end Sys2Proof.Machine
end

section
/-! SUPPORT. Both ends of an exchange (41_framer_rx.md R190): how a frame one endpoint sends comes to another, the frames of a segmented
payload as frame kinds, and what reassembling a drain delivers. -/

namespace Sys2Proof.Machine

/-! ## Payloads among events -/

@[simp] theorem payloadsOf_nil : payloadsOf [] = [] := rfl

@[simp] theorem payloadsOf_cons_status (c : Code) (info : Info) (es : List Event) :
    payloadsOf (.status c info :: es) = payloadsOf es := rfl

@[simp] theorem payloadsOf_cons_rxPayload (who : Byte) (p : List Byte) (es : List Event) :
    payloadsOf (.rxPayload who p :: es) = (who, p) :: payloadsOf es := rfl

@[simp] theorem payloadsOf_append (es ds : List Event) : payloadsOf (es ++ ds) = payloadsOf es ++ payloadsOf ds :=
  List.filterMap_append

/-! ## A frame one endpoint sends, at another -/

variable {s t : State} {who : Byte} {d : Vector Byte 8} {i : Instr}

/-- `t` takes the frames of `s` for what they are: it is enabled, both have one BASE_ID, and its low byte is 0, so that the identifier's
low byte is the address of `s` (log 8). -/
def Hears (s t : State) : Prop := enabled t = true ∧ baseId s = baseId t ∧ (baseId s).extractLsb' 0 8 = 0

theorem Hears.symm (h : Hears s t) (hen : enabled s = true) : Hears t s := by
  obtain ⟨-, hbase, hlow⟩ := h
  exact ⟨hen, hbase.symm, hbase ▸ hlow⟩

theorem senderOf_sentFrame (h : (baseId s).extractLsb' 0 8 = 0) (d : Vector Byte 8) : senderOf (sentFrame s d) = localAddr s := by
  have hor : senderOf (sentFrame s d) = (baseId s).extractLsb' 0 8 ||| localAddr s := by
    ext j hj
    simp [senderOf, sentFrame, hj, show j < 29 by omega, show j < 11 by omega]
  rw [hor, h]
  exact BitVec.zero_or

theorem acceptable_sentFrame (h : Hears s t) (hd : d[0] = localAddr t) : acceptable (sentFrame s d) t := by
  obtain ⟨hen, hbase, -⟩ := h
  refine ⟨hen, rfl, ?_, ?_, rfl, hd⟩
  · have hlt := (baseId s ||| (localAddr s).setWidth 11).isLt
    simp only [sentFrame, BitVec.toNat_setWidth]
    omega
  · rw [← hbase]
    ext j hj
    simp [sentFrame, show 8 + j < 29 by omega]

/-- TP_RX of a frame sent to `t` is the frame kind its data spell, from the address of `s`. -/
theorem exec_tpRx_sentFrame {kind : FrameKind} (h : Hears s t) (hc : Carries i kind (localAddr s))
    (hd : encodeFrame (localAddr t) i = some d) : exec (.tpRx (sentFrame s d)) t = exec i t := by
  obtain ⟨hrecipient, -⟩ := decodeFrame_encodeFrame hd
  obtain ⟨-, -, hlow⟩ := id h
  refine exec_tpRx_of_decodeFrame (acceptable_sentFrame h hrecipient) ?_
  rw [senderOf_sentFrame hlow]
  exact decodeFrame_of_encodeFrame hc hd

/-! ## The frames of a segmented payload -/

/-- The six data bytes of a padded single or consecutive frame. -/
theorem dataFrom2_padTo8 (fill x y : Byte) {l : List Byte} (h : l.length ≤ 6) :
    (dataFrom2 (padTo8 fill (x :: y :: l))).toList = l ++ List.replicate (6 - l.length) fill := by
  rw [dataFrom2_toList, padTo8_toList _ _ (by simp; omega)]
  simp

theorem dataFrom3_padTo8 (fill x y z : Byte) {l : List Byte} (h : l.length = 5) :
    (dataFrom3 (padTo8 fill (x :: y :: z :: l))).toList = l := by
  rw [dataFrom3_toList, padTo8_toList _ _ (by simp [h])]
  simp [h]

/-- A payload of 1..6 bytes comes as a single frame of its length. -/
theorem exec_tpRx_sfFrame (h : Hears s t) {p : List Byte} (h6 : p.length ≤ 6) :
    exec (.tpRx (sfFrame s (localAddr t) p)) t =
      exec (.isotpSf (localAddr s) (BitVec.ofNat 4 p.length)
        (dataFrom2 (padTo8 (pad s) (localAddr t :: BitVec.ofNat 8 p.length :: p)))) t := by
  refine exec_tpRx_sentFrame h (.isotpSf _ _ _) ?_
  have hpci : (0x0#4) ++ BitVec.ofNat 4 p.length = BitVec.ofNat 8 p.length := by
    interval_cases p.length <;> rfl
  rw [encodeFrame, hpci]
  rfl

/-- The first frame of a longer payload comes with its length and its first five bytes. -/
theorem exec_tpRx_ffFrame (h : Hears s t) (p : List Byte) :
    ∃ b : Vector Byte 5, (5 ≤ p.length → b.toList = p.take 5) ∧
      exec (.tpRx (ffFrame s (localAddr t) p)) t = exec (.isotpFf (localAddr s) (BitVec.ofNat 12 p.length) b) t := by
  refine ⟨dataFrom3 (padTo8 (pad s) (localAddr t :: ((0x1#4) ++ (BitVec.ofNat 12 p.length).extractLsb' 8 4) ::
    (BitVec.ofNat 12 p.length).extractLsb' 0 8 :: p.take 5)), fun h5 => ?_, ?_⟩
  · exact dataFrom3_padTo8 _ _ _ _ (by simpa using h5)
  · exact exec_tpRx_sentFrame h (.isotpFf _ _ _) rfl

/-- A consecutive frame comes with its sequence number and its chunk, padded. -/
theorem exec_tpRx_cfFrame (h : Hears s t) (sn : Nibble) {chunk : List Byte} (h6 : chunk.length ≤ 6) :
    ∃ b : Vector Byte 6, b.toList = chunk ++ List.replicate (6 - chunk.length) (pad s) ∧
      exec (.tpRx (cfFrame s (localAddr t) sn chunk)) t = exec (.isotpCf (localAddr s) sn b) t :=
  ⟨_, dataFrom2_padTo8 (pad s) (localAddr t) ((0x2#4) ++ sn) h6, exec_tpRx_sentFrame h (.isotpCf _ _ _) rfl⟩

/-- The answer to a first frame comes as a flow-control continue. -/
theorem exec_tpRx_fcFrame (h : Hears s t) :
    exec (.tpRx (fcFrame s (localAddr t))) t =
      exec (.isotpFc (localAddr s) 0 (fcBs s) (fcStmin s) #v[pad s, pad s, pad s, pad s]) t :=
  exec_tpRx_sentFrame h (.isotpFc _ _ _ _ _) rfl

/-! ## Reassembling a drain (R182-R184) -/

@[simp] theorem feed_nil (s : State) : feed [] s = some s := rfl

theorem feed_cons {f : RawFrame} (fs : List RawFrame) (h : exec (.tpRx f) s = .next t) : feed (f :: fs) s = feed fs t :=
  runAll_cons h

section Reassembling
variable {k : Nat} {r : Reassembly}

/-- The frame that carries the last bytes a slot waits for delivers the payload. -/
theorem exec_tpRx_cfFrame_last (hhears : Hears s t) (h : Awaits (localAddr s) t k r) {chunk : List Byte}
    (hout : r.out.toNat = chunk.length) (h6 : chunk.length ≤ 6) :
    exec (.tpRx (cfFrame s (localAddr t) r.nsn chunk)) t =
      done (setSlot t k .idle) [.rxPayload (localAddr s) (r.buf ++ chunk)] := by
  obtain ⟨b, hb, hframe⟩ := exec_tpRx_cfFrame hhears r.nsn h6
  rw [hframe, exec_isotpCf_of_awaits h, cfIntoSlot_last (by omega), hb, hout, List.take_left]

/-- A frame of six bytes that leaves more outstanding extends the reassembly. -/
theorem exec_tpRx_cfFrame_more (hhears : Hears s t) (h : Awaits (localAddr s) t k r) {chunk : List Byte} (hout : 7 ≤ r.out.toNat)
    (h6 : chunk.length = 6) :
    exec (.tpRx (cfFrame s (localAddr t) r.nsn chunk)) t = done (setSlot t k (.receiving (extend r chunk))) [] := by
  obtain ⟨b, hb, hframe⟩ := exec_tpRx_cfFrame hhears r.nsn h6.le
  have hchunk : b.toList = chunk := by simpa [h6] using hb
  rw [hframe, exec_isotpCf_of_awaits h, cfIntoSlot_more hout, hchunk]

/-- The frames of a drain, handed to the endpoint whose slot waits for just those bytes, deliver its buffer and the bytes, once. -/
theorem feed_drainFrames {fuel : Nat} {rem : List Byte} (hhears : Hears s t) (h : Awaits (localAddr s) t k r)
    (hout : r.out.toNat = rem.length) (hne : rem ≠ []) (hfuel : rem.length ≤ fuel) :
    ∃ u es, feed (drainFrames s (localAddr t) fuel rem r.nsn) t = some u ∧ u.outs = t.outs ++ es ∧
      payloadsOf es = [(localAddr s, r.buf ++ rem)] := by
  induction fuel generalizing t rem r with
  | zero => exact absurd (List.length_eq_zero_iff.mp (Nat.le_zero.mp hfuel)) hne
  | succ fuel ih =>
    have hdrop : (rem.drop 6).length = rem.length - 6 := List.length_drop
    rw [drainFrames_cons _ _ _ _ _ hne]
    by_cases hlast : rem.length ≤ 6
    · rw [List.take_of_length_le hlast, List.drop_eq_nil_of_le hlast, drainFrames_nil,
        feed_cons _ (exec_tpRx_cfFrame_last hhears h hout hlast), feed_nil]
      exact ⟨_, _, rfl, rfl, by simp⟩
    · have hmore := exec_tpRx_cfFrame_more hhears h (by omega) (show (rem.take 6).length = 6 by simp; omega)
      obtain ⟨hk, hs, hfree⟩ := h
      have hnext : Awaits (localAddr s) (setSlot t k (.receiving (extend r (rem.take 6)))) k (extend r (rem.take 6)) :=
        awaits_setSlot (List.getElem?_eq_some_iff.mp hk).1 hfree hs
      obtain ⟨u, es, hfeed, houts, hpay⟩ :=
        ih (t := emits (setSlot t k (.receiving (extend r (rem.take 6)))) [.status .ok .empty]) (rem := rem.drop 6) hhears hnext
          (by rw [extend_out (by omega)]; omega) (List.ne_nil_of_length_pos (by omega)) (by omega)
      refine ⟨u, .status .ok .empty :: es, (feed_cons _ hmore).trans hfeed, ?_, ?_⟩
      · rw [houts]
        simp
      · rw [payloadsOf_cons_status, hpay, extend, List.append_assoc, List.take_append_drop]

end Reassembling

/-! ## The parts of an exchange -/

/-- `t` has the address, the BASE_ID and the EN bit of `s`. -/
def SameConfig (s t : State) : Prop := t.cfg0 = s.cfg0 ∧ t.cfg1 = s.cfg1

theorem SameConfig.localAddr_eq (h : SameConfig s t) : localAddr t = localAddr s := by
  rw [localAddr, localAddr, h.1]

theorem Hears.of_sameConfig {s' t' : State} (h : Hears s t) (hs : SameConfig s s') (ht : SameConfig t t') : Hears s' t' := by
  obtain ⟨hs0, hs1⟩ := hs
  obtain ⟨ht0, ht1⟩ := ht
  simpa only [Hears, enabled, baseId, hs0, hs1, ht0, ht1] using h

section Parts
variable {a b : State} {p : List Byte}

theorem exec_tpSend_short (hen : enabled a = true) (h1 : 1 ≤ p.length) (h6 : p.length ≤ 6) (r : Byte) :
    exec (.tpSend r p) a = finish (setTx a .none) [.txFrame (sfFrame a r p)] (sendStatus a).1 (sendStatus a).2 := by
  change execTpSend r p a = _
  rw [execTpSend, hen, if_neg (by decide), if_neg (by rw [Config.maxPayload]; omega), if_pos h6]

/-- The sender of a short payload sends its single frame. -/
theorem exists_send_short (hen : enabled a = true) (h1 : 1 ≤ p.length) (h6 : p.length ≤ 6) (r : Byte) :
    ∃ a1, exec (.tpSend r p) a = .next a1 ∧ txFramesOf (newEvents a a1) = [sfFrame a r p] := by
  refine ⟨_, exec_tpSend_short hen h1 h6 r, ?_⟩
  rw [newEvents_append _ _ _ rfl]
  rfl

/-- The sender of a longer payload sends a first frame and keeps the rest. -/
theorem exists_send_long (hen : enabled a = true) (h7 : 7 ≤ p.length) (hmax : p.length ≤ 4095) (r : Byte) :
    ∃ a1, exec (.tpSend r p) a = .next a1 ∧ txFramesOf (newEvents a a1) = [ffFrame a r p] ∧
      a1.tx = .pending r (p.drop 5) 1 ∧ SameConfig a a1 := by
  refine ⟨_, exec_tpSend_long hen h7 hmax r, ?_, rfl, rfl, rfl⟩
  rw [newEvents_append _ _ _ rfl]
  rfl

/-- The receiver delivers a short payload. -/
theorem exec_tpRx_sfFrame_delivers (hhears : Hears a b) (h1 : 1 ≤ p.length) (h6 : p.length ≤ 6) :
    exec (.tpRx (sfFrame a (localAddr b) p)) b = done b [.rxPayload (localAddr a) p] := by
  have hlen : (BitVec.ofNat 4 p.length).toNat = p.length := Nat.mod_eq_of_lt (by omega)
  rw [exec_tpRx_sfFrame hhears h6, exec_isotpSf_legal (by omega) (by omega), dataFrom2_padTo8 _ _ _ h6, hlen, List.take_left]

/-- The receiver answers the first frame of a longer payload, and waits for the bytes the sender keeps. -/
theorem exists_receive_ffFrame {k : Nat} (hhears : Hears a b) (h7 : 7 ≤ p.length) (hmax : p.length ≤ 4095)
    (hslot : selectSlotFf (localAddr a) b = some k) (hfree : slotFree (localAddr a) b k) (hlt : k < b.slots.length) :
    ∃ b1 r c info, exec (.tpRx (ffFrame a (localAddr b) p)) b = .next b1 ∧
      b1.outs = b.outs ++ [.txFrame (fcFrame b (localAddr a)), .status c info] ∧ SameConfig b b1 ∧
      Awaits (localAddr a) b1 k r ∧ r.buf = p.take 5 ∧ r.out.toNat = (p.drop 5).length ∧ r.nsn = 1 := by
  have hlen : (BitVec.ofNat 12 p.length).toNat = p.length := Nat.mod_eq_of_lt (by omega)
  obtain ⟨chunk, hchunk, hff⟩ := exec_tpRx_ffFrame hhears p
  rw [exec_isotpFf_starts hslot (by omega), hchunk (by omega)] at hff
  refine ⟨_, _, _, _, hff, rfl, ⟨rfl, rfl⟩, awaits_setSlot hlt hfree rfl, rfl, ?_, rfl⟩
  simp only [startReassembly, hlen, List.length_take, List.length_drop, BitVec.toNat_ofNat]
  omega

/-- The sender answers the flow control with every remaining frame. -/
theorem exists_receive_fcFrame {rem : List Byte} {sn : Nibble} (hhears : Hears b a) (htx : a.tx = .pending (localAddr b) rem sn) :
    ∃ a1, exec (.tpRx (fcFrame b (localAddr a))) a = .next a1 ∧
      txFramesOf (newEvents a a1) = drainFrames a (localAddr b) rem.length rem sn := by
  refine ⟨_, (exec_tpRx_fcFrame hhears).trans (exec_isotpFc_continue htx _ _ _), ?_⟩
  rw [newEvents_append _ _ _ rfl, txFramesOf_append, txFramesOf_map_txFrame]
  exact List.append_nil _

/-! ## An exchange -/

/-- An exchange is what the receiver makes of the frames of its last part, given what each earlier part sends. -/
theorem exchange_eq {a1 a2 b1 : State} {peer : Byte} {fs gs hs : List RawFrame} (hsend : exec (.tpSend peer p) a = .next a1)
    (hfs : txFramesOf (newEvents a a1) = fs) (hfirst : feed fs b = some b1) (hgs : txFramesOf (newEvents b b1) = gs)
    (hback : feed gs a1 = some a2) (hhs : txFramesOf (newEvents a1 a2) = hs) : exchange a b peer p = feed hs b1 := by
  subst hfs hgs hhs
  simp only [exchange, runAll_cons hsend, runAll_nil, hfirst, hback]

/-- A payload of 1..6 bytes arrives in its single frame, and nothing is sent back. -/
theorem exchange_short (hhears : Hears a b) (hen : enabled a = true) (h1 : 1 ≤ p.length) (h6 : p.length ≤ 6) :
    ∃ t, exchange a b (localAddr b) p = some t ∧ payloadsOf (newEvents b t) = [(localAddr a, p)] := by
  obtain ⟨a1, hsend, hsf⟩ := exists_send_short hen h1 h6 (localAddr b)
  have hfirst := (feed_cons [] (exec_tpRx_sfFrame_delivers hhears h1 h6)).trans (feed_nil _)
  have hevents := newEvents_append b (emits b [.rxPayload (localAddr a) p, .status .ok .empty]) _ rfl
  have hnone : txFramesOf (newEvents a1 a1) = [] := by
    rw [newEvents_append a1 a1 [] (List.append_nil _).symm]
    rfl
  refine ⟨_, exchange_eq hsend hsf hfirst (congrArg txFramesOf hevents) (feed_nil a1) hnone, ?_⟩
  exact congrArg payloadsOf hevents

/-- A longer payload arrives in its first frame and the frames the flow control drains. -/
theorem exchange_long {k : Nat} (hhears : Hears a b) (hen : enabled a = true) (h7 : 7 ≤ p.length) (hmax : p.length ≤ 4095)
    (hslot : selectSlotFf (localAddr a) b = some k) (hfree : slotFree (localAddr a) b k) (hlt : k < b.slots.length) :
    ∃ t, exchange a b (localAddr b) p = some t ∧ payloadsOf (newEvents b t) = [(localAddr a, p)] := by
  obtain ⟨a1, hsend, hff, htx, ha⟩ := exists_send_long hen h7 hmax (localAddr b)
  obtain ⟨b1, r, c, info, hstart, houts, hb, hawaits, hbuf, hout, hnsn⟩ := exists_receive_ffFrame hhears h7 hmax hslot hfree hlt
  obtain ⟨a2, hfc, hdrain⟩ := exists_receive_fcFrame ((hhears.symm hen).of_sameConfig ⟨rfl, rfl⟩ ha) htx
  obtain ⟨t, es, hfeed, houts', hpay⟩ := feed_drainFrames (hhears.of_sameConfig ha hb) (ha.localAddr_eq ▸ hawaits) hout
    (List.ne_nil_of_length_pos (by simp; omega)) le_rfl
  rw [ha.localAddr_eq] at hfc hpay
  rw [hb.localAddr_eq, hnsn] at hfeed
  refine ⟨t, (exchange_eq hsend hff (feed_cons [] hstart) (congrArg txFramesOf (newEvents_append _ _ _ houts))
    (feed_cons [] hfc) hdrain).trans hfeed, ?_⟩
  rw [newEvents_append b t _ (houts'.trans (by rw [houts, List.append_assoc])), payloadsOf_append, hpay, hbuf, List.take_append_drop]
  rfl

end Parts

end Sys2Proof.Machine
end

section
/-! The obligation on both ends of an exchange (41_framer_rx.md R190). -/

namespace Sys2Proof.Machine

/-- Settles O60: a short payload is one frame; the frames of a longer one extend, one by one, the reassembly its first frame starts. -/
theorem segmentReassembleRoundTrip : Obligations.SegmentReassembleRoundTrip := by
  unfold Obligations.SegmentReassembleRoundTrip
  rintro sa sb a b p hena henb rfl rfl hbase hlow h1 hmax hnone hidle hpos
  have hhears : Hears sa sb := ⟨henb, hbase, hlow⟩
  obtain ⟨k, hk, hlt⟩ := exists_ffSlot hnone hidle hpos
  by_cases h6 : p.length ≤ 6
  · exact exchange_short hhears hena h1 h6
  · exact exchange_long hhears hena (by omega) hmax (selectSlotFf_of_noneReceivingFrom hnone hk) (slotFree_of_ffSlot hnone hk) hlt

end Sys2Proof.Machine
end

section
/-! The obligations on the framer's receive side (41_framer_rx.md). -/

namespace Sys2Proof.Machine

/-- Settles O12: TP_RX of an accepted frame and the frame's kind go through one classification. -/
theorem acceptedFrameRunsItsKind : Obligations.AcceptedFrameRunsItsKind := by
  unfold Obligations.AcceptedFrameRunsItsKind
  intro f s ha
  refine ⟨fun i hi => ⟨exec_tpRx_of_decodeFrame ha hi, ?_⟩, fun hnone => ?_⟩
  · obtain ⟨u, es, c, info, -, h⟩ := exec_endsIn (.tpRx f) s
    exact ⟨_, h⟩
  · rw [exec_tpRx_of_acceptable ha, classifyPci_of_four_le ((decodeFrame_none_iff _ _).mp hnone)]
    rfl

/-- Settles O23: no choice the framer makes depends on the schema table, and none of its effects writes it. -/
theorem framerIgnoresSchemas : Obligations.FramerIgnoresSchemas := by
  unfold Obligations.FramerIgnoresSchemas
  intro i s table hi
  obtain ⟨t, h, h'⟩ := exec_agrees_of_isFramer (table := table) hi s
  exact ⟨t, h, exec_sch_eq_of_isFramer hi h, h'⟩

/-- Settles O45: each clause fails one check of `Accept` and passes those before it. -/
theorem acceptChecksInOrder : Obligations.AcceptChecksInOrder := by
  unfold Obligations.AcceptChecksInOrder
  intro s f
  refine ⟨fun hen => ?_, fun hen hf => ?_, fun hen hf hid => ?_, fun hen hf hext hid hdlc => ?_, fun hen hf hext hid hdlc hrec => ?_⟩
  · exact exec_tpRx_of_acceptError (acceptError_of_disabled hen f)
  · exact exec_tpRx_of_acceptError (acceptError_of_not_frameLegal hen hf)
  all_goals have haccept := acceptError_of_frameLegal hen hf
  · exact exec_tpRx_of_acceptError (haccept.trans (if_pos hid))
  · exact exec_tpRx_of_acceptError (by rw [haccept, if_neg (by simp [hext, hid]), if_pos hdlc])
  · exact exec_tpRx_of_acceptError (by rw [haccept, if_neg (by simp [hext, hid]), if_neg (by simp [hdlc]), if_pos hrec])

/-- Settles O46: a single frame delivers without a look at the state, and TP_RX of an accepted one is that. -/
theorem singleFrameDelivers : Obligations.SingleFrameDelivers := by
  unfold Obligations.SingleFrameDelivers
  refine ⟨fun s who dl b => ⟨fun h1 h6 => exec_isotpSf_legal h1 h6 who b s, fun h => exec_isotpSf_illegal h who b s⟩, ?_⟩
  intro s f dl ha hdl h1 h6
  obtain ⟨htype, hnibble⟩ := pci_of_lt_sixteen (d := f.data) (by omega)
  rw [exec_tpRx_of_acceptable ha, classifyPci_of_sf htype, sfPci_of_legal (by omega) (by omega), hnibble, hdl, dataFrom2_toList]
  rfl

/-- Settles O47: by the length, with the slot that R170 and R37 pin down. -/
theorem firstFrameTakesItsSlot : Obligations.FirstFrameTakesItsSlot := by
  unfold Obligations.FirstFrameTakesItsSlot
  intro s who len b k hl hslot
  have hk := selectSlotFf_of_ffSlot hl hslot
  rw [← ffStatus_eq_ffEnding]
  refine ⟨fun h1 h5 => exec_isotpFf_whole hk h1 h5 b, fun h6 => ?_⟩
  rw [← startReassembly_eq who h6]
  exact exec_isotpFf_starts hk h6 b

/-- Settles O48: a length of 0 is an error of classification, and a table full of other senders gives no slot. -/
theorem firstFrameTurnedAway : Obligations.FirstFrameTurnedAway := by
  unfold Obligations.FirstFrameTurnedAway
  intro s who len b
  refine ⟨?_, fun hlen hp hnone hbusy => exec_isotpFf_noSlot (selectSlotFf_eq_none hp hnone hbusy) hlen b⟩
  rintro rfl
  exact exec_isotpFf_zero who b s

/-- Settles O49: by whether the bytes outstanding fit one frame; R37 makes what was received and what was outstanding the whole. -/
theorem consecutiveFrameAppends : Obligations.ConsecutiveFrameAppends := by
  unfold Obligations.ConsecutiveFrameAppends
  intro s who b k r hl hcf
  have hexec := exec_isotpCf_of_awaits (awaits_of_cfSlot hl hcf) r.nsn b
  obtain ⟨hk, rfl, -⟩ := hcf
  refine ⟨fun h7 => hexec.trans (cfIntoSlot_more h7 _ b k s), fun h6 => ⟨hexec.trans (cfIntoSlot_last h6 _ b k s), ?_⟩⟩
  obtain ⟨htotal, -, -⟩ := hl.1 k r hk
  simp only [List.length_append, List.length_take, Vector.length_toList]
  omega

/-- Settles O50: the wrong SN, the wrong sender, and the two modes in which no reassembly waits. -/
theorem consecutiveFrameViolations : Obligations.ConsecutiveFrameViolations := by
  unfold Obligations.ConsecutiveFrameViolations
  intro s who sn b hl
  refine ⟨fun k r hcf hne => ?_, fun r hp hr hs => ?_, fun hp hidle => ?_, fun hp hnone => ?_⟩
  · exact (exec_isotpCf_of_awaits (awaits_of_cfSlot hl hcf) sn b).trans (cfIntoSlot_of_ne hne who b k s)
  · exact exec_isotpCf_wrongSender hp hr hs sn b
  · exact exec_isotpCf_of_idle hp hidle who sn b
  · exact exec_isotpCf_of_noneReceivingFrom hp hnone sn b

/-- Settles O51: the error leaves no slot receiving from the sender and one more IDLE, so the first frame takes an IDLE one. -/
theorem sequenceErrorLeavesFreshStart : Obligations.SequenceErrorLeavesFreshStart := by
  unfold Obligations.SequenceErrorLeavesFreshStart
  intro s who sn b c len k r hl hcf hne h6
  have herror := (exec_isotpCf_of_awaits (awaits_of_cfSlot hl hcf) sn b).trans (cfIntoSlot_of_ne hne who b k s)
  obtain ⟨j, hj, hidle⟩ := exists_ffSlot_idle hl hcf
  have hlt : j < (s.slots.set k .idle).length := (List.getElem?_eq_some_iff.mp hidle).1
  have hstart := exec_isotpFf_starts_fresh
    (s := emits (setSlot s k .idle) [.status .protocolViolationSequence (.sequence who r.nsn sn)])
    (noneReceivingFrom_setSlot_idle hl hcf) hj hidle h6 c
  rw [startReassembly_eq who h6] at hstart
  refine ⟨_, j, hidle, (runAll_cons herror).trans (runAll_cons hstart), List.getElem?_set_self hlt, ?_⟩
  rw [emits_outs, setSlot_outs, emits_outs, setSlot_outs, List.append_assoc]
  rfl

/-- Settles O52: the form and the length of the frame, then its type nibble. -/
theorem classifierReportsPci : Obligations.ClassifierReportsPci := by
  unfold Obligations.ClassifierReportsPci
  intro s f t x who
  refine ⟨fun hf => exec_tpClassify_malformed hf s, fun hf hdlc => exec_tpClassify_length hf hdlc s, fun hf hdlc => ?_⟩
  rw [exec_tpClassify_legal hf hdlc]
  refine ⟨fun ht h1 h6 => ?_, fun ht h => ?_, fun ht hlen => ?_, fun ht hlen => ?_, fun ht => ?_, fun ht => ?_, fun ht => ?_⟩
  · rw [classifyPci_of_sf ht, sfPci_of_legal (dl := pciNibble f.data) h1 h6, dataFrom2_toList]; rfl
  · rw [classifyPci_of_sf ht, sfPci_of_illegal (dl := pciNibble f.data) h]; rfl
  · rw [classifyPci_of_ff ht, ffPci_of_ne_zero (len := ffLength f.data) hlen, dataFrom3_toList]; rfl
  · rw [classifyPci_of_ff ht, show ffLength f.data = 0 from hlen]; rfl
  · rw [classifyPci_of_cf ht, ← dataFrom2_toList]; rfl
  · rw [classifyPci_of_fc ht]; rfl
  · rw [classifyPci_of_four_le ht]; rfl

/-- Settles O53: a slot is emptied when it receives and ALL is set or its sender is the one named. -/
theorem discardEmptiesSlots : Obligations.DiscardEmptiesSlots := by
  unfold Obligations.DiscardEmptiesSlots
  intro s who all hit
  have hhit : discards who all = hit := by
    funext v
    cases v <;> rfl
  rw [← hhit]
  exact ⟨fun hen => exec_tpDiscard_disabled hen who all, fun hen => exec_tpDiscard_enabled hen who all⟩

end Sys2Proof.Machine
end

section
/-! SUPPORT. What the framer sends (42_framer_tx.md): the bytes of each frame, the frames of a drain as a list, and what TP_SEND and a
flow-control frame do in the case they are in. -/

namespace Sys2Proof.Machine

variable {s u : State} {i : Instr} {es : List Event} {c : Code} {info : Info} {r who : Byte} {p rem : List Byte} {sn fs : Nibble}

/-! ## The bytes of the frames of a send (R210, R215) -/

theorem sfFrame_bytes (s : State) (r : Byte) (h6 : p.length ≤ 6) : ∃ d, sfFrame s r p = sentFrame s d ∧
    d.toList = [r, BitVec.ofNat 8 p.length] ++ p ++ List.replicate (6 - p.length) (pad s) :=
  ⟨_, sentFrame_eq s _, by rw [padTo8_toList _ _ (by simp; omega)]; simp⟩

/-- The type nibble of a first frame and the high bits of its length are one byte (30_encoding.md R97). -/
theorem ffPci_byte {n : Nat} (h : n ≤ 4095) :
    (0x1#4) ++ (BitVec.ofNat 12 n).extractLsb' 8 4 = BitVec.ofNat 8 (0x10 + n / 256) := by
  have hhigh : ((BitVec.ofNat 12 n).extractLsb' 8 4).toNat = n / 256 := by
    rw [extract_toNat, BitVec.toNat_ofNat]
    omega
  apply BitVec.eq_of_toNat_eq
  rw [BitVec.toNat_append, hhigh, ← Nat.shiftLeft_add_eq_or_of_lt (by omega), BitVec.toNat_ofNat, BitVec.toNat_ofNat]
  omega

theorem ffLength_byte (n : Nat) : (BitVec.ofNat 12 n).extractLsb' 0 8 = BitVec.ofNat 8 (n % 256) := by
  apply BitVec.eq_of_toNat_eq
  rw [extract_low_toNat, BitVec.toNat_ofNat, BitVec.toNat_ofNat]
  omega

theorem ffFrame_bytes (s : State) (r : Byte) (h5 : 5 ≤ p.length) (hmax : p.length ≤ 4095) : ∃ d, ffFrame s r p = sentFrame s d ∧
    d.toList = [r, BitVec.ofNat 8 (0x10 + p.length / 256), BitVec.ofNat 8 (p.length % 256)] ++ p.take 5 :=
  ⟨_, sentFrame_eq s _, by rw [padTo8_toList _ _ (by simp; omega), ffPci_byte hmax, ffLength_byte]; simp [h5]⟩

/-! ## The frames of a drain (R222-R224) -/

/-- The data of frame `j` of a drain of `rem` that begins with sequence number `sn`. -/
def drainData (s : State) (r : Byte) (rem : List Byte) (sn : Nibble) (j : Nat) : Vector Byte 8 :=
  padTo8 (pad s) (r :: ((0x2#4) ++ (sn + BitVec.ofNat 4 j)) :: (rem.drop (6 * j)).take 6)

theorem drainData_succ (s : State) (r : Byte) (rem : List Byte) (sn : Nibble) (j : Nat) :
    drainData s r rem sn (j + 1) = drainData s r (rem.drop 6) (sn + 1) j := by
  have hsn : sn + BitVec.ofNat 4 (j + 1) = sn + 1 + BitVec.ofNat 4 j := by
    rw [BitVec.ofNat_add, add_comm (BitVec.ofNat 4 j), ← add_assoc]
    rfl
  rw [drainData, drainData, hsn, List.drop_drop, Nat.mul_succ, Nat.add_comm (6 * j)]

theorem drainData_toList (s : State) (r : Byte) (rem : List Byte) (sn : Nibble) (j : Nat) :
    (drainData s r rem sn j).toList = [r, (0x2#4) ++ (sn + BitVec.ofNat 4 j)] ++ (rem.drop (6 * j)).take 6 ++
      List.replicate (6 - (rem.length - 6 * j)) (pad s) := by
  have hpad : 8 - (min 6 (rem.length - 6 * j) + 1 + 1) = 6 - (rem.length - 6 * j) := by omega
  rw [drainData, padTo8_toList _ _ (by simp; omega)]
  simp [hpad]

/-- A drain sends, in order, one frame for every six bytes begun. -/
theorem drainFrames_eq_map (s : State) (r : Byte) {fuel : Nat} (h : rem.length ≤ fuel) (sn : Nibble) :
    drainFrames s r fuel rem sn = (List.range (cfFramesFor rem.length)).map (fun j => sentFrame s (drainData s r rem sn j)) := by
  induction fuel generalizing rem sn with
  | zero =>
    obtain rfl : rem = [] := List.length_eq_zero_iff.mp (by omega)
    rfl
  | succ fuel ih =>
    by_cases hne : rem = []
    · subst hne
      rfl
    · have hpos : 0 < rem.length := List.length_pos_iff.mpr hne
      have hdrop : (rem.drop 6).length = rem.length - 6 := List.length_drop
      have hcount : cfFramesFor rem.length = cfFramesFor (rem.length - 6) + 1 := by
        rw [cfFramesFor, cfFramesFor]
        omega
      have hfirst : cfFrame s r sn (rem.take 6) = sentFrame s (drainData s r rem sn 0) := by
        simp [cfFrame, drainData, sentFrame_eq]
      rw [drainFrames_cons _ _ _ _ _ hne, ih (by omega), hdrop, hcount, List.range_succ_eq_map, List.map_cons, List.map_map, hfirst]
      simp only [Function.comp_def, drainData_succ]

/-! ## Every frame sent (R213) -/

/-- A frame an instruction sends has the identifier and the form of R213. -/
theorem Effect.sent {f : RawFrame} (h : Effect s i u es c info) (hf : Event.txFrame f ∈ es) : ∃ d, f = sentFrame s d := by
  cases h with
  | sendWhole | sendFirst | firstStarts => exact ⟨_, Event.txFrame.inj (List.mem_singleton.mp hf)⟩
  | drained i who rem sn =>
    rw [drainFrames_eq_map s who le_rfl] at hf
    obtain ⟨j, -, hj⟩ : ∃ j, j < cfFramesFor rem.length ∧ sentFrame s (drainData s who rem sn j) = f := by simpa using hf
    exact ⟨_, hj.symm⟩
  | _ => simp at hf

/-! ## TP_SEND (R210-R216) -/

theorem sendStatus_eq_sendEnding (s : State) : Event.status (sendStatus s).1 (sendStatus s).2 = sendEnding s := by
  unfold sendStatus sendEnding
  cases s.tx <;> rfl

theorem exec_tpSend_disabled (hen : enabled s = false) (r : Byte) (p : List Byte) :
    exec (.tpSend r p) s = raise s .notConfigured .empty := by
  change execTpSend r p s = _
  rw [execTpSend, hen, if_pos (by decide)]

theorem exec_tpSend_length (hen : enabled s = true) (hlen : p.length = 0 ∨ 4096 ≤ p.length) (r : Byte) :
    exec (.tpSend r p) s = raise s .payloadLength (.length p.length) := by
  change execTpSend r p s = _
  rw [execTpSend, hen, if_neg (by decide), if_pos (by rw [Config.maxPayload]; omega)]

/-! ## Flow control (R220-R230) -/

theorem exec_isotpFc_invalidStatus (hs : strict s = true) (hfs : 3 ≤ fs.toNat) (who bs st : Byte) (pd : Vector Byte 4) :
    exec (.isotpFc who fs bs st pd) s = raise s .invalidFcStatus (.flowStatus fs) := by
  change rxFc who fs s = _
  rw [rxFc, if_pos ⟨hs, hfs⟩]

theorem exec_isotpFc_unexpected (hfs : strict s = false ∨ fs.toNat ≤ 2) (htx : ∀ rem sn, s.tx ≠ .pending who rem sn) (bs st : Byte)
    (pd : Vector Byte 4) : exec (.isotpFc who fs bs st pd) s = raise s .unexpectedFc (.sender who) := by
  change rxFc who fs s = _
  rw [rxFc, if_neg (by rintro ⟨hs, hlt⟩; simp [hs] at hfs; omega)]
  cases h : s.tx with
  | none => rfl
  | pending r rem sn =>
    have hr : r ≠ who := fun hr => htx rem sn (hr ▸ h)
    exact if_pos hr

section Pending
variable (ht : s.tx = .pending who rem sn)
include ht

/-- A drain asks for a continue only under STRICT (R222, R230). -/
theorem exec_isotpFc_drains (h : strict s = false ∨ fs = 0) (bs st : Byte) (pd : Vector Byte 4) :
    exec (.isotpFc who fs bs st pd) s = drain s who rem sn := by
  change rxFc who fs s = _
  obtain hs | rfl := h
  · simp [rxFc, ht, hs]
  · exact exec_isotpFc_continue ht bs st pd

theorem exec_isotpFc_wait (hs : strict s = true) (bs st : Byte) (pd : Vector Byte 4) :
    exec (.isotpFc who 1 bs st pd) s = finish s [] .ok .wait := by
  change rxFc who 1 s = _
  simp [rxFc, ht, hs]

theorem exec_isotpFc_abort (hs : strict s = true) (bs st : Byte) (pd : Vector Byte 4) :
    exec (.isotpFc who 2 bs st pd) s = finish (setTx s .none) [] .txAborted (.recipient who) := by
  change rxFc who 2 s = _
  simp [rxFc, ht, hs]

end Pending

end Sys2Proof.Machine
end

section
/-! The obligations on the framer's send side (42_framer_tx.md). -/

namespace Sys2Proof.Machine

/-- Settles O25: every effect that sends, sends frames made by one function of the configuration. -/
theorem sentFrameShape : Obligations.SentFrameShape := by
  unfold Obligations.SentFrameShape
  intro i s t f h hf
  obtain ⟨u, es, c, info, heff, rfl⟩ := effect_of_exec h
  have hmem : Event.txFrame f ∈ es := by simpa [heff.newEvents_eq] using hf
  obtain ⟨d, rfl⟩ := heff.sent hmem
  exact ⟨rfl, rfl, rfl⟩

/-- Settles O54: by the EN bit, then by the length of the payload. -/
theorem sendEffect : Obligations.SendEffect := by
  unfold Obligations.SendEffect
  intro s r p
  rw [← sendStatus_eq_sendEnding]
  refine ⟨fun hen => exec_tpSend_disabled hen r p, fun hen hlen => exec_tpSend_length hen hlen r, fun hen h1 h6 => ?_,
    fun hen h7 hmax => ?_⟩
  · obtain ⟨d, hframe, hd⟩ := sfFrame_bytes s r h6
    exact ⟨d, hframe ▸ exec_tpSend_short hen h1 h6 r, hd⟩
  · obtain ⟨d, hframe, hd⟩ := ffFrame_bytes s r (by omega) hmax
    exact ⟨d, hframe ▸ exec_tpSend_long hen h7 hmax r, hd⟩

/-- Settles O55: the drain's loop is a list indexed by the frame's number, whatever BS and STmin say. -/
theorem flowControlDrains : Obligations.FlowControlDrains := by
  unfold Obligations.FlowControlDrains
  intro s who fs bs st pd rem sn ht h
  refine ⟨(List.range (cfFramesFor rem.length)).map (drainData s who rem sn), ?_, by simp [cfFramesFor], fun i d hd => ?_⟩
  · rw [exec_isotpFc_drains ht h, drain, drainFrames_eq_map s who le_rfl, done_eq, List.map_map, List.map_map, List.append_assoc]
    rfl
  · obtain ⟨j, hj, rfl⟩ := List.getElem?_eq_some_iff.mp hd
    simpa using drainData_toList s who rem sn i

/-- Settles O56: under STRICT only a continue drains; a wait writes nothing, an abort clears the segment. -/
theorem strictWaitAndAbort : Obligations.StrictWaitAndAbort := by
  unfold Obligations.StrictWaitAndAbort
  intro s who bs st pd rem sn ht hs
  exact ⟨exec_isotpFc_wait ht hs bs st pd, exec_isotpFc_abort ht hs bs st pd⟩

/-- Settles O57: the status check comes first; then the segment must be pending for the sender. -/
theorem flowControlRefused : Obligations.FlowControlRefused := by
  unfold Obligations.FlowControlRefused
  intro s who fs bs st pd
  exact ⟨fun hs hfs => exec_isotpFc_invalidStatus hs hfs who bs st pd, fun hfs htx => exec_isotpFc_unexpected hfs htx bs st pd⟩

end Sys2Proof.Machine
end

section
/-! SUPPORT. CFG_WRITE, CFG_READ, SCH_WRITE and SCH_READ case by case, the word an SCH_READ looks at, and the flow control frame an FF is
answered with after a write of CFG2 (43_config.md R241-R245). -/

namespace Sys2Proof.Machine

variable {s u : State} {k w k' w' : Byte} {e : SchemaEntry}

/-! ## Registers (R241-R243) -/

/-- The framer reset empties the table and clears the segment. -/
theorem framerReset_eq (s : State) : framerReset s = { s with slots := List.replicate s.slots.length .idle, tx := .none } := by
  rw [framerReset, List.map_const']
  rfl

/-- No register from 5 on exists (R242). -/
theorem exec_cfgRead_of_five_le {n : Byte} (h : 5 ≤ n.toNat) (s : State) :
    exec (.cfgRead n) s = raise s .badRegister (.reg n) := by
  have hne : n ≠ 0 ∧ n ≠ 1 ∧ n ≠ 2 ∧ n ≠ 3 ∧ n ≠ 4 := by refine ⟨?_, ?_, ?_, ?_, ?_⟩ <;> rintro rfl <;> simp at h
  obtain ⟨h0, h1, h2, h3, h4⟩ := hne
  change execCfgRead n s = _
  rw [execCfgRead, registerValue, if_neg h0, if_neg h1, if_neg h2, if_neg h3, if_neg h4]

/-- FC_BS and FC_STMIN are writable in every bit, so both hold what was written (R26, R241). -/
theorem flowParameters_setCfg2 (s : State) (v : Word32) :
    fcBs (setCfg2 s (v &&& cfg2Mask)) = v.extractLsb' 0 8 ∧ fcStmin (setCfg2 s (v &&& cfg2Mask)) = v.extractLsb' 8 8 := by
  have hmask : cfg2Mask.extractLsb' 0 8 = BitVec.allOnes 8 ∧ cfg2Mask.extractLsb' 8 8 = BitVec.allOnes 8 := by decide
  obtain ⟨hbs, hstmin⟩ := hmask
  rw [fcBs, fcStmin, setCfg2_cfg2, BitVec.extractLsb'_and, BitVec.extractLsb'_and, hbs, hstmin, BitVec.and_allOnes, BitVec.and_allOnes]
  exact ⟨rfl, rfl⟩

/-- The choice of a slot looks neither at CFG2 nor at what has been emitted. -/
theorem selectSlotFf_emits_setCfg2 (who : Byte) (s : State) (v : Word32) (es : List Event) :
    selectSlotFf who (emits (setCfg2 s v) es) = selectSlotFf who s := rfl

/-! ## The masks of schema words (R244) -/

/-- The writable bits of each schema word, every one of them as a numeral. -/
theorem schMask_eq (n : Nat) :
    schMask n = if n = 0 then 0x7F else if n = 1 then 0x1FFFFFFF else if n ≤ 9 then 0x7F else 0xFFFFFFFFFFFFFFFF := rfl

/-- The reserved bits of each schema word. -/
theorem not_schMask (n : Nat) :
    ~~~schMask n = if n = 0 then 0xFFFFFFFFFFFFFF80 else if n = 1 then 0xFFFFFFFFE0000000
      else if n ≤ 9 then 0xFFFFFFFFFFFFFF80 else 0 := by
  rw [schMask_eq, apply_ite Complement.complement, apply_ite Complement.complement, apply_ite Complement.complement]
  rfl

/-! ## SCH_WRITE and SCH_READ (R244, R245) -/

theorem exec_schWrite_noEntry (h : s.sch.length ≤ k.toNat) (w : Byte) (v : Word64) :
    exec (.schWrite k w v) s = raise s .badSchema (.index k.toNat) := by
  change execSchWrite k w v s = _
  rw [execSchWrite, List.getElem?_eq_none h]

theorem exec_schWrite_noWord (hk : k.toNat < s.sch.length) (hw : 17 < w.toNat) (v : Word64) :
    exec (.schWrite k w v) s = raise s .badRegister (.word w) := by
  change execSchWrite k w v s = _
  rw [execSchWrite, List.getElem?_eq_getElem hk]
  exact if_pos hw

theorem exec_schRead_noEntry (h : s.sch.length ≤ k.toNat) (w : Byte) :
    exec (.schRead k w) s = raise s .badSchema (.index k.toNat) := by
  change execSchRead k w s = _
  rw [execSchRead, List.getElem?_eq_none h]

theorem exec_schRead_noWord (hk : k.toNat < s.sch.length) (hw : 17 < w.toNat) :
    exec (.schRead k w) s = raise s .badRegister (.word w) := by
  change execSchRead k w s = _
  rw [execSchRead, List.getElem?_eq_getElem hk]
  exact if_pos hw

/-- SCH_READ of a word that exists. -/
theorem exec_schRead (he : s.sch[k.toNat]? = some e) (hw : w.toNat ≤ 17) :
    exec (.schRead k w) s = done s [.result (.word (wordAt e w.toNat))] := by
  change execSchRead k w s = _
  rw [execSchRead, he]
  exact if_neg (by omega)

/-- A word that exists reads as what was written to it. -/
theorem wordAt_setWord_same {n : Nat} (hn : n ≤ 17) (e : SchemaEntry) (v : Word64) : wordAt (setWord e n v) n = v :=
  (wordAt_setWord e n n v).trans (if_pos ⟨rfl, by omega⟩)

/-- Every other word of the entry reads as before. -/
theorem wordAt_setWord_ne {n j : Nat} (h : j ≠ n) (e : SchemaEntry) (v : Word64) : wordAt (setWord e n v) j = wordAt e j :=
  (wordAt_setWord e n j v).trans (if_neg fun hj => h hj.1)

/-- The word an SCH_READ of entry `k` and word `w` looks at, if the entry exists. -/
def schemaWord (s : State) (k w : Byte) : Option Word64 := s.sch[k.toNat]?.map (wordAt · w.toNat)

/-- SCH_READ looks at one word alone. -/
theorem exec_schRead_alike (h : schemaWord s k w = schemaWord u k w) :
    AnswersAlike s u (exec (.schRead k w) s) (exec (.schRead k w) u) := by
  change AnswersAlike s u (execSchRead k w s) (execSchRead k w u)
  rw [schemaWord, schemaWord] at h
  rw [execSchRead, execSchRead]
  cases hs : s.sch[k.toNat]? with
  | none =>
    have hu : u.sch[k.toNat]? = none := by simpa [hs] using h.symm
    rw [hu]
    exact answersAlike_raise s u _ _
  | some e =>
    obtain ⟨d, hu, hd⟩ : ∃ d, u.sch[k.toNat]? = some d ∧ wordAt d w.toNat = wordAt e w.toNat := by simpa [hs] using h.symm
    rw [hu]
    refine .ite (answersAlike_raise s u _ _) ?_
    rw [hd]
    exact answersAlike_done s u _

/-- Writing one word of an entry leaves every other word of the table. -/
theorem schemaWord_setWord_of_ne (he : s.sch[k.toNat]? = some e) (hne : k' ≠ k ∨ w' ≠ w) (v : Word64) :
    schemaWord (setSch s (s.sch.set k.toNat (setWord e w.toNat v))) k' w' = schemaWord s k' w' := by
  rw [schemaWord, schemaWord, setSch_sch]
  by_cases hk : k' = k
  · subst hk
    have hw : w'.toNat ≠ w.toNat := fun h => hne.resolve_left (not_not_intro rfl) (BitVec.eq_of_toNat_eq h)
    rw [List.getElem?_set_self (List.getElem?_eq_some_iff.mp he).1, he, Option.map_some, Option.map_some, wordAt_setWord_ne hw]
  · rw [List.getElem?_set_ne fun h => hk (BitVec.eq_of_toNat_eq h.symm)]

end Sys2Proof.Machine
end

section
/-! The obligations on the registers and the schema table (43_config.md). -/

namespace Sys2Proof.Machine

/-- Settles O28: the writes of CFG0 and CFG1 reset the framer, that of CFG2 does not, and there is no other register to write. -/
theorem registerWriteEffect : Obligations.RegisterWriteEffect := by
  unfold Obligations.RegisterWriteEffect
  intro s v
  refine ⟨?_, ?_, exec_cfgWrite_cfg2 s v, fun n hn => exec_cfgWrite_of_three_le hn s v⟩
  · rw [exec_cfgWrite_cfg0, framerReset_eq]
    rfl
  · rw [exec_cfgWrite_cfg1, framerReset_eq]
    rfl

/-- Settles O29: a register that exists reads as its value; the reserved bits are those the write masks drop. -/
theorem registerReadValue : Obligations.RegisterReadValue := by
  unfold Obligations.RegisterReadValue
  intro s
  exact ⟨exec_cfgRead rfl, exec_cfgRead rfl, exec_cfgRead rfl, exec_cfgRead rfl, exec_cfgRead rfl,
    fun n hn => exec_cfgRead_of_five_le hn s, fun hl => hl⟩

/-- Settles O32: by the checks on entry and word; the write itself is one word of one entry. -/
theorem schemaWriteEffect : Obligations.SchemaWriteEffect := by
  unfold Obligations.SchemaWriteEffect
  intro s k w v
  refine ⟨fun hk => exec_schWrite_noEntry hk w v, fun hk hw => exec_schWrite_noWord hk hw v, fun e he hw => ?_⟩
  refine ⟨setWord e w.toNat (v &&& schMask w.toNat), exec_schWrite he hw v, ?_, fun j _ hne => wordAt_setWord_ne hne e _⟩
  rw [wordAt_setWord_same hw, schMask_eq]

/-- Settles O33: by the checks on entry and word; the reserved bits are those the write mask drops. -/
theorem schemaReadValue : Obligations.SchemaReadValue := by
  unfold Obligations.SchemaReadValue
  intro s k w
  refine ⟨fun hk => exec_schRead_noEntry hk w, exec_schRead_noWord, fun e he hw => ⟨exec_schRead he hw, fun hl => ?_⟩⟩
  rw [← not_schMask]
  exact hl e (List.mem_of_getElem? he) w.toNat (by omega)

/-- Settles O34: the word written is read back under its mask, and a read of any other word looks at a word the write left alone. -/
theorem schemaWriteThenRead : Obligations.SchemaWriteThenRead := by
  unfold Obligations.SchemaWriteThenRead
  intro s k w v hk hw
  have he := List.getElem?_eq_getElem hk
  refine ⟨_, exec_schWrite he hw v, ?_, fun k' w' hne => ?_⟩
  · rw [exec_schRead (List.getElem?_set_self hk) hw, wordAt_setWord_same hw]
    rfl
  · exact exec_schRead_alike (schemaWord_setWord_of_ne he hne _).symm

/-- Settles O59: the write of CFG2 leaves the FF its slot, and the FC that answers the FF reads its parameters from CFG2. -/
theorem newFlowParametersApply : Obligations.NewFlowParametersApply := by
  unfold Obligations.NewFlowParametersApply
  intro s v who len b k hl hslot h6
  have hstart := exec_isotpFf_starts (s := emits (setCfg2 s (v &&& cfg2Mask)) [.status .ok .empty])
    ((selectSlotFf_emits_setCfg2 who s _ _).trans (selectSlotFf_of_ffSlot hl hslot)) h6 b
  obtain ⟨hbs, hstmin⟩ := flowParameters_setCfg2 s v
  refine ⟨_, (runAll_cons (exec_cfgWrite_cfg2 s v)).trans (runAll_cons hstart), rfl,
    fun j hj => List.getElem?_set_ne (Ne.symm hj), ?_⟩
  rw [newEvents_append s _ _ (List.append_assoc ..), ← hbs, ← hstmin]
  rfl

end Sys2Proof.Machine
end

section
/-! SUPPORT. Status codes and slots (60_exceptions.md R262, R264): a command that ends in a code that resets a slot has written the slots,
and the output tells the Status a command ended in. -/

namespace Sys2Proof.Machine

variable {s t u : State} {i : Instr} {es : List Event} {c : Code} {info : Info}

/-! ## Codes of no slot reset -/

/-- Only errors reset a slot (R262). -/
theorem not_resetsSlot_of_not_isError (h : isError c = false) : resetsSlot c = false := by
  revert h
  cases c <;> decide

theorem sendStatus_not_isError (s : State) : isError (sendStatus s).1 = false := by
  unfold sendStatus
  split <;> rfl

theorem ffStatus_not_isError (s : State) (k : Nat) : isError (ffStatus s k).1 = false := by
  unfold ffStatus
  split <;> rfl

/-- The checks of `Match` reset no slot (40_codec.md R126). -/
theorem matchEntry_err_not_resetsSlot {k : Nat} {e : SchemaEntry} {f : RawFrame} (h : matchEntry k e f = .err c info) :
    resetsSlot c = false := by
  unfold matchEntry at h
  repeat' split at h
  all_goals cases h
  all_goals rfl

/-- The checks of `Accept` reset no slot (41_framer_rx.md R162). -/
theorem acceptError_not_resetsSlot {f : RawFrame} {e : Code × Info} (h : acceptError f s = some e) : resetsSlot e.1 = false := by
  unfold acceptError at h
  repeat' split at h
  all_goals cases h
  all_goals rfl

/-- The errors of `ClassifyPCI` reset no slot (R164). -/
theorem classifyPci_err_not_resetsSlot {d : Vector Byte 8} (h : classifyPci d = .err c info) : resetsSlot c = false := by
  unfold classifyPci sfPci ffPci cfPci fcPci at h
  repeat' split at h
  all_goals cases h
  all_goals rfl

/-! ## A code that resets a slot comes with a write of the slots -/

/-- The outcome ends in a Status, and has written the slots of `s` if the Status is one that resets a slot. -/
def ResetsAreWritten (s : State) (o : Host.Outcome State Fault Refusal) : Prop :=
  ∃ u es c info, o = finish u es c info ∧ (resetsSlot c = true → u.slots ≠ s.slots)

theorem resetsAreWritten_finish (hc : resetsSlot c = false) : ResetsAreWritten s (finish u es c info) :=
  ⟨u, es, c, info, rfl, fun h => absurd h (by simp [hc])⟩

theorem ResetsAreWritten.ite {p : Prop} [Decidable p] {a b : Host.Outcome State Fault Refusal} (ha : ResetsAreWritten s a)
    (hb : ResetsAreWritten s b) : ResetsAreWritten s (if p then a else b) := by
  split
  · exact ha
  · exact hb

/-- Emptying a slot that receives is a write. -/
theorem resetsAreWritten_setSlot_idle {k : Nat} {r : Reassembly} (h : s.slots[k]? = some (Slot.receiving r)) (c : Code) (info : Info) :
    ResetsAreWritten s (raise (setSlot s k .idle) c info) := by
  refine ⟨_, _, c, info, rfl, fun _ heq => ?_⟩
  have hlt : k < s.slots.length := (List.getElem?_eq_some_iff.mp h).1
  have hidle : s.slots[k]? = some Slot.idle := heq ▸ List.getElem?_set_self hlt
  cases h.symm.trans hidle

theorem execCodecDecode_resetsAreWritten (k : Byte) (f : RawFrame) (s : State) : ResetsAreWritten s (execCodecDecode k f s) := by
  unfold execCodecDecode
  split
  · exact resetsAreWritten_finish rfl
  · refine .ite (resetsAreWritten_finish rfl) ?_
    split
    · next h => exact resetsAreWritten_finish (matchEntry_err_not_resetsSlot h)
    · exact resetsAreWritten_finish rfl

theorem execCodecEncode_resetsAreWritten (k sender m : Byte) (v : Vector Word64 8) (s : State) :
    ResetsAreWritten s (execCodecEncode k sender m v s) := by
  unfold execCodecEncode
  split
  · exact resetsAreWritten_finish rfl
  · exact resetsAreWritten_finish rfl

theorem execCodecClassify_resetsAreWritten (k n : Byte) (f : RawFrame) (s : State) :
    ResetsAreWritten s (execCodecClassify k n f s) := by
  unfold execCodecClassify
  split
  · exact resetsAreWritten_finish rfl
  · refine .ite (resetsAreWritten_finish rfl) ?_
    split
    · exact resetsAreWritten_finish rfl
    · exact resetsAreWritten_finish rfl

theorem execCfgWrite_resetsAreWritten (n : Byte) (v : Word32) (s : State) : ResetsAreWritten s (execCfgWrite n v s) :=
  .ite (resetsAreWritten_finish rfl) (.ite (resetsAreWritten_finish rfl)
    (.ite (resetsAreWritten_finish rfl) (resetsAreWritten_finish rfl)))

theorem execCfgRead_resetsAreWritten (n : Byte) (s : State) : ResetsAreWritten s (execCfgRead n s) := by
  unfold execCfgRead
  split
  · exact resetsAreWritten_finish rfl
  · exact resetsAreWritten_finish rfl

theorem execSchWrite_resetsAreWritten (k w : Byte) (v : Word64) (s : State) : ResetsAreWritten s (execSchWrite k w v s) := by
  unfold execSchWrite
  split
  · exact resetsAreWritten_finish rfl
  · exact .ite (resetsAreWritten_finish rfl) (resetsAreWritten_finish rfl)

theorem execSchRead_resetsAreWritten (k w : Byte) (s : State) : ResetsAreWritten s (execSchRead k w s) := by
  unfold execSchRead
  split
  · exact resetsAreWritten_finish rfl
  · exact .ite (resetsAreWritten_finish rfl) (resetsAreWritten_finish rfl)

theorem execTpSend_resetsAreWritten (r : Byte) (p : List Byte) (s : State) : ResetsAreWritten s (execTpSend r p s) :=
  have hsent := not_resetsSlot_of_not_isError (sendStatus_not_isError s)
  .ite (resetsAreWritten_finish rfl) (.ite (resetsAreWritten_finish rfl)
    (.ite (resetsAreWritten_finish hsent) (resetsAreWritten_finish hsent)))

theorem execTpDiscard_resetsAreWritten (who : Byte) (all : Bool) (s : State) : ResetsAreWritten s (execTpDiscard who all s) :=
  .ite (resetsAreWritten_finish rfl) (resetsAreWritten_finish rfl)

theorem execTpClassify_resetsAreWritten (f : RawFrame) (s : State) : ResetsAreWritten s (execTpClassify f s) := by
  refine .ite (resetsAreWritten_finish rfl) (.ite (resetsAreWritten_finish rfl) ?_)
  cases h : classifyPci f.data with
  | err => exact resetsAreWritten_finish (classifyPci_err_not_resetsSlot h)
  | _ => exact resetsAreWritten_finish rfl

theorem rxFf_resetsAreWritten (who : Byte) (len : Length12) (chunk : List Byte) (s : State) :
    ResetsAreWritten s (rxFf who len chunk s) := by
  obtain ⟨-, h⟩ | ⟨k, -, -, h⟩ | ⟨k, -, -, h⟩ := rxFf_cases who len chunk s <;> rw [h]
  · exact resetsAreWritten_finish rfl
  · exact resetsAreWritten_finish (not_resetsSlot_of_not_isError (ffStatus_not_isError s k))
  · exact resetsAreWritten_finish (not_resetsSlot_of_not_isError (ffStatus_not_isError s k))

/-- The two errors of RxCF that reset a slot empty one that receives (R180, R181). -/
theorem rxCf_resetsAreWritten (who : Byte) (sn : Nibble) (b : Vector Byte 6) (s : State) : ResetsAreWritten s (rxCf who sn b s) := by
  obtain h | ⟨r, -, hr, -, h⟩ | ⟨k, r, ⟨hk, -⟩, -, h⟩ := rxCf_cases who sn b s <;> rw [h]
  · exact resetsAreWritten_finish rfl
  · exact resetsAreWritten_setSlot_idle hr _ _
  · exact .ite (resetsAreWritten_setSlot_idle hk _ _) (.ite (resetsAreWritten_finish rfl) (resetsAreWritten_finish rfl))

theorem rxFc_resetsAreWritten (who : Byte) (fs : Nibble) (s : State) : ResetsAreWritten s (rxFc who fs s) := by
  obtain ⟨-, -, h⟩ | h | ⟨_, _, -, -, h⟩ | ⟨-, -, -, -, -, h⟩ | ⟨-, -, -, -, h⟩ := rxFc_cases who fs s <;> rw [h]
  all_goals exact resetsAreWritten_finish rfl

theorem rxClassified_resetsAreWritten (who : Byte) (d : Vector Byte 8) (s : State) :
    ResetsAreWritten s (rxClassified who (classifyPci d) s) := by
  cases h : classifyPci d with
  | err => exact resetsAreWritten_finish (classifyPci_err_not_resetsSlot h)
  | sf => exact resetsAreWritten_finish rfl
  | ff len chunk => exact rxFf_resetsAreWritten who len chunk s
  | cf sn b => exact rxCf_resetsAreWritten who sn b s
  | fc fs => exact rxFc_resetsAreWritten who fs s

theorem execTpRx_resetsAreWritten (f : RawFrame) (s : State) : ResetsAreWritten s (execTpRx f s) := by
  unfold execTpRx
  split
  · next h => exact resetsAreWritten_finish (acceptError_not_resetsSlot h)
  · exact rxClassified_resetsAreWritten _ f.data s

/-- A frame kind's instruction is the classification of the data it encodes to. -/
theorem exec_resetsAreWritten_of_encodeFrame {kind : FrameKind} {who : Byte} {d : Vector Byte 8} (hi : Carries i kind who)
    (h : encodeFrame who i = some d) (s : State) : ResetsAreWritten s (exec i s) := by
  rw [exec_of_decodeFrame (decodeFrame_of_encodeFrame hi h)]
  exact rxClassified_resetsAreWritten who d s

/-- Every instruction that ends in a code that resets a slot has written the slots. -/
theorem exec_resetsAreWritten (i : Instr) (s : State) : ResetsAreWritten s (exec i s) := by
  cases i with
  | codecDecode k f => exact execCodecDecode_resetsAreWritten k f s
  | codecEncode k sender m v => exact execCodecEncode_resetsAreWritten k sender m v s
  | codecClassify k n f => exact execCodecClassify_resetsAreWritten k n f s
  | tpRx f => exact execTpRx_resetsAreWritten f s
  | tpSend r p => exact execTpSend_resetsAreWritten r p s
  | tpClassify f => exact execTpClassify_resetsAreWritten f s
  | tpDiscard who all => exact execTpDiscard_resetsAreWritten who all s
  | cfgWrite n v => exact execCfgWrite_resetsAreWritten n v s
  | cfgRead n => exact execCfgRead_resetsAreWritten n s
  | schWrite k w v => exact execSchWrite_resetsAreWritten k w v s
  | schRead k w => exact execSchRead_resetsAreWritten k w s
  | isotpSf who dl b => exact exec_resetsAreWritten_of_encodeFrame (.isotpSf who dl b) rfl s
  | isotpFf who len b => exact exec_resetsAreWritten_of_encodeFrame (.isotpFf who len b) rfl s
  | isotpCf who sn b => exact exec_resetsAreWritten_of_encodeFrame (.isotpCf who sn b) rfl s
  | isotpFc who fs bs st padding => exact exec_resetsAreWritten_of_encodeFrame (.isotpFc who fs bs st padding) rfl s

/-- A command that leaves the slots alone ends in a code that resets none. -/
theorem not_resetsSlot_of_exec_slots_eq {l : List Event} (h : exec i s = .next t) (hslots : t.slots = s.slots)
    (houts : t.outs = l ++ [.status c info]) : resetsSlot c = false := by
  obtain ⟨u, es, c', info', hend, hwritten⟩ := exec_resetsAreWritten i s
  obtain rfl : t = emits u (es ++ [.status c' info']) := by simpa [finish] using h.symm.trans hend
  have hlast := List.append_inj_right' ((List.append_assoc ..).trans houts) rfl
  obtain ⟨rfl, rfl⟩ : c' = c ∧ info' = info := by simpa using hlast
  simpa using fun hr => hwritten hr hslots

/-! ## The Status in the output -/

/-- The output tells an effect's events and Status apart. -/
theorem effect_of_exec_outs (h : exec i s = .next t) (houts : t.outs = s.outs ++ es ++ [.status c info]) :
    ∃ u, Effect s i u es c info ∧ t = emits u (es ++ [.status c info]) := by
  obtain ⟨u, ds, d, info', heff, rfl⟩ := effect_of_exec h
  rw [emits_outs, heff.outs_eq, List.append_assoc] at houts
  obtain ⟨rfl, hlast⟩ := List.append_inj' (List.append_cancel_left houts) rfl
  obtain ⟨rfl, rfl⟩ : d = c ∧ info' = info := by simpa using hlast
  exact ⟨u, heff, rfl⟩

end Sys2Proof.Machine
end

section
/-! The obligation on the precision of errors (60_exceptions.md R264). -/

namespace Sys2Proof.Machine

/-- Settles O20: three effects end in an error. A Status alone leaves the slots alone, so its code resets none; the other two are those of
R180 and R181. -/
theorem errorsArePrecise : Obligations.ErrorsArePrecise := by
  unfold Obligations.ErrorsArePrecise
  intro i s t es c info h houts herr
  obtain ⟨u, heff, rfl⟩ := effect_of_exec_outs h houts
  cases heff with
  | statusOnly =>
    have hspares := not_resetsSlot_of_exec_slots_eq h rfl houts
    refine ⟨rfl, fun _ => rfl, ?_, ?_⟩ <;> (rintro rfl; cases hspares)
  | wrongSender _ who r _ hp hr hs =>
    exact ⟨rfl, nofun, fun _ => ⟨who, r, hp, hr, hs, rfl, rfl⟩, nofun⟩
  | wrongSequence _ who sn k r _ hk hm hn =>
    exact ⟨rfl, nofun, nofun, fun _ => ⟨who, sn, k, r, hk, hm, hn, rfl, rfl⟩⟩
  | sendWhole | sendFirst => simp [sendStatus_not_isError] at herr
  | firstWhole | firstStarts => simp [ffStatus_not_isError] at herr
  | _ => cases herr

end Sys2Proof.Machine
end

section
/-! SUPPORT. The reset event as a step, and a block with no VALID schema (10_state.md R34; 70_reset_and_hazards.md R290, R291). -/

namespace Sys2Proof.Machine

variable {s : State}

theorem step_of_reset {rest : List HostInput} (h : s.input = .reset :: rest) : step s = .next (setInput (resetEvent s) rest) := by
  simp [step, h]

/-- A schema that is not VALID is not a valid schema (R34). -/
theorem not_schemaValid_of_none_valid (h : ∀ e ∈ s.sch, entryIsValid e = false) (k : Nat) (e : SchemaEntry) :
    ¬ schemaValid s k e := by
  rintro ⟨hget, hvalid, -⟩
  exact absurd hvalid (by simp [h e (List.mem_of_getElem? hget)])

/-- With no VALID schema, the first index of a range of at least one is already invalid. -/
theorem exec_codecClassify_of_none_valid (h : ∀ e ∈ s.sch, entryIsValid e = false) (k : Byte) {n : Byte} (hn : n ≠ 0)
    (f : RawFrame) : exec (.codecClassify k n f) s = raise s .badSchema (.index k.toNat) := by
  have hpos : 0 < n.toNat := by bv_omega
  exact exec_codecClassify_invalid hpos (not_schemaValid_of_none_valid h _) (fun _ hj => absurd hj (Nat.not_lt_zero _)) f

end Sys2Proof.Machine
end

section
/-! The obligations on reset and on a block before setup (70_reset_and_hazards.md). -/

namespace Sys2Proof.Machine

/-- Settles O10: the step is `resetEvent`, whose fields are the values of R43, with the reset taken from the input. -/
theorem stepOnResetEvent : Obligations.StepOnResetEvent := by
  unfold Obligations.StepOnResetEvent
  intro s rest hin
  exact step_of_reset hin

/-- Settles O15: no index names a valid schema, and a block whose EN is clear fails the first check of each framer command. -/
theorem unsetBlockRefuses : Obligations.UnsetBlockRefuses := by
  unfold Obligations.UnsetBlockRefuses
  refine ⟨fun s hnone => ⟨fun k f => ?_, fun k who m v => ?_, fun k n f hn => ?_⟩,
    fun s hen => ⟨fun f => ?_, fun r p => ?_, fun who all => ?_⟩⟩
  · exact exec_codecDecode_invalid (not_schemaValid_of_none_valid hnone _) f
  · exact exec_codecEncode_invalid (not_schemaValid_of_none_valid hnone _) who m v
  · exact exec_codecClassify_of_none_valid hnone k hn f
  · exact exec_tpRx_of_acceptError (acceptError_of_disabled hen f)
  · exact exec_tpSend_disabled hen r p
  · exact exec_tpDiscard_disabled hen who all

end Sys2Proof.Machine
end
